-- ==== Sys2Proof/Word.lean ====
section
/-! DEFINITION. The words of the block: bytes, and the 32-bit words every register access moves.
Base addresses, handles, lengths, the cursor and the counter have the widths AW, HW, LENW and CNTW, which are
parameters (R11 of 00_scope.md): they are natural numbers, bounded where they enter (WellFormed.lean). -/

namespace Sys2Proof

/-- A byte of a command, of a response or of the buffer. -/
abbrev Byte := BitVec 8

/-- One register access: DW = 32 bits (R11 of 00_scope.md, R74 of 20_memory.md). -/
abbrev Word := BitVec 32

end Sys2Proof
end

