-- ==== Sys2Proof/Config.lean ====
section
/-! DEFINITION. The parameters of the block (R11 to R15 of 00_scope.md, the OPEN list of 92_eei_decisions.md) and the free values.
A parameter is a field of Config; State holds one Config that no step changes (log entry 1), so a statement about
every state is a statement about every value of every parameter.
A free value is an opaque constant without a body: nothing can be proved about which value it is. -/

namespace Sys2Proof

/-- The parameters, each under its name in the spec. Bit positions are the number of the (lowest) bit of the field. -/
structure Config where
  /-- AW, width in bits of the base address (R11). -/
  aw : Nat
  /-- HW, width in bits of a resumption handle (R11). -/
  hw : Nat
  /-- LENW, width in bits of length, cursor and count (R11). -/
  lenw : Nat
  /-- CNTW, width in bits of the interrupt counter of a hardware realisation (R11, R218 of 42_interrupt_wake.md). -/
  cntw : Nat
  /-- RX_BIT, TX_BIT, N_IRQ: the interrupt registers (R12). -/
  rxBit : Nat
  txBit : Nat
  nIrq : Nat
  /-- Positions in CR (R51 of 10_state.md). -/
  uartenBit : Nat
  txeBit : Nat
  rxeBit : Nat
  /-- Positions in LCR_H (R50 of 10_state.md); WLEN is two bits wide. -/
  brkBit : Nat
  penBit : Nat
  epsBit : Nat
  stp2Bit : Nat
  fenBit : Nat
  wlenBit : Nat
  spsBit : Nat
  /-- Positions in IFLS (R52 of 10_state.md); both fields are three bits wide. -/
  txiflselBit : Nat
  rxiflselBit : Nat
  /-- WAKE_MASK and WAKE_FIRE_CLEARS (R13). -/
  wakeMask : Word
  wakeFireClears : Bool
  /-- The constants INIT writes (R14). -/
  crOffVal : Word
  ibrdVal : Word
  fbrdVal : Word
  lcrhVal : Word
  iflsVal : Word
  imscAll : Word
  crOnVal : Word
  /-- CLEAR_ALL, written to ICR by ACK and IRQ (R14). -/
  clearAll : Word
  /-- IRQ_PREEMPTS (R15). -/
  irqPreempts : Bool
  deriving DecidableEq, Repr

/-- The defaults and placeholders of R11 to R15, WAKE_MASK as built (R13): the parameters of every test vector.
PRESUMED (by the spec itself): the PL011 bit positions, log entry 2. -/
def Config.default : Config where
  aw := 64
  hw := 32
  lenw := 32
  cntw := 64
  rxBit := 4
  txBit := 5
  nIrq := 11
  uartenBit := 0
  txeBit := 8
  rxeBit := 9
  brkBit := 0
  penBit := 1
  epsBit := 2
  stp2Bit := 3
  fenBit := 4
  wlenBit := 5
  spsBit := 7
  txiflselBit := 0
  rxiflselBit := 3
  wakeMask := 0x00000010#32
  wakeFireClears := true
  crOffVal := 0x00000000#32
  ibrdVal := 0x0000001A#32
  fbrdVal := 0x00000003#32
  lcrhVal := 0x00000060#32
  iflsVal := 0x00000012#32
  imscAll := 0x000007FF#32
  crOnVal := 0x00000301#32
  clearAll := 0x000007FF#32
  irqPreempts := false

/-- The bits of the implemented interrupt sources: bits 0 to N_IRQ - 1 (R12). -/
def Config.sourceBits (c : Config) : Word := BitVec.ofNat 32 (2 ^ c.nIrq - 1)

/-- The constraints R11 to R14 put on the parameters: widths are positive multiples of 8, positions lie in a word,
CR_OFF_VAL has UARTEN clear, LCRH_VAL has word length 8, CR_ON_VAL has the three enables set, IMSC_ALL and CLEAR_ALL
have every implemented source bit set. -/
abbrev Config.Wf (c : Config) : Prop :=
  (c.aw % 8 = 0 ∧ 0 < c.aw) ∧ (c.hw % 8 = 0 ∧ 0 < c.hw) ∧ (c.lenw % 8 = 0 ∧ 0 < c.lenw) ∧
  0 < c.cntw ∧
  (c.nIrq ≤ 32 ∧ c.rxBit < c.nIrq ∧ c.txBit < c.nIrq) ∧
  (c.uartenBit < 32 ∧ c.txeBit < 32 ∧ c.rxeBit < 32 ∧ c.wlenBit < 31) ∧
  c.crOffVal.getLsbD c.uartenBit = false ∧
  (c.lcrhVal >>> c.wlenBit) &&& 3#32 = 3#32 ∧
  (c.crOnVal.getLsbD c.uartenBit = true ∧ c.crOnVal.getLsbD c.txeBit = true ∧ c.crOnVal.getLsbD c.rxeBit = true) ∧
  c.imscAll &&& c.sourceBits = c.sourceBits ∧
  c.clearAll &&& c.sourceBits = c.sourceBits

/-- The block as built: the monitored condition is the receive bit (R13 of 00_scope.md, R212 of 42_interrupt_wake.md). -/
abbrev Config.AsBuilt (c : Config) : Prop := c.wakeMask = 1#32 <<< c.rxBit

/-- FREE VALUE: the word the peripheral answers where the spec lets it answer any word (R86 of 20_memory.md, U1 of
93_implementation_defined.md); the argument is the state's counter of free values. Log entries 5, 10, 11. -/
opaque Config.freeWord : Nat → Word

/-- FREE VALUE: whether DROP keeps the registration in the wake cell (R190 of 41_async_write.md, U2 of
93_implementation_defined.md); the argument is the state's counter of free values. Log entry 6. -/
opaque Config.dropKeepsWake : Nat → Bool

/-- FREE VALUE: what a register of the peripheral holds when the block comes out of reset, by offset (R62 of
10_state.md, R271 of 70_reset_and_hazards.md). Log entry 4. -/
opaque Config.uartAtReset : Nat → Word

end Sys2Proof
end

