-- ==== Sys2Proof/Syntax.lean ====
section
/-! DEFINITION. The instructions: the ten commands of R112 of 30_encoding.md and one transaction per register of R44 of
10_state.md (R124 of 30_encoding.md), one constructor for every row of spec/opcode_table.json. -/

namespace Sys2Proof

/-- The eleven registers of the peripheral, under their mnemonics (R44 of 10_state.md). -/
inductive Reg where
  | dr | fr | ibrd | fbrd | lcrh | cr | ifls | imsc | ris | mis | icr
  deriving DecidableEq, Repr

/-- The kind of a register transaction: kind R, or kind W with its 32-bit data (R124 of 30_encoding.md). -/
inductive Access where
  | read
  | write (v : Word)
  deriving DecidableEq, Repr

/-- One constructor per row of spec/opcode_table.json.
The commands carry the operand their format gives (R112 to R117). A register row is the transaction (kind, register,
data) of R124 at that register; the read-only registers FR, RIS and MIS carry no operand, being read only (R44). -/
inductive Instr where
  /-- CONSTRUCT base, format A (R150). -/
  | construct (base : Nat)
  /-- INIT, format N (R153). -/
  | init
  /-- PUTC byte, format B (R155). -/
  | putc (b : Byte)
  /-- GETC, format N (R157). -/
  | getc
  /-- RXPEND, format N (R159). -/
  | rxpend
  /-- ACK, format N (R160). -/
  | ack
  /-- IRQ, format N (R210). -/
  | irq
  /-- BEGIN bytes, format V (R180). -/
  | beginWrite (bytes : List Byte)
  /-- DRIVE handle, format H (R182). -/
  | drive (h : Nat)
  /-- DROP, format N (R190). -/
  | drop
  /-- DR, offset 0x00, read/write (R45). -/
  | dr (a : Access)
  /-- FR, offset 0x18, read-only (R46). -/
  | fr
  /-- IBRD, offset 0x24, read/write (R47). -/
  | ibrd (a : Access)
  /-- FBRD, offset 0x28, read/write (R48). -/
  | fbrd (a : Access)
  /-- LCR_H, offset 0x2c, read/write (R50). -/
  | lcrh (a : Access)
  /-- CR, offset 0x30, read/write (R51). -/
  | cr (a : Access)
  /-- IFLS, offset 0x34, read/write (R52). -/
  | ifls (a : Access)
  /-- IMSC, offset 0x38, read/write (R53). -/
  | imsc (a : Access)
  /-- RIS, offset 0x3c, read-only (R54). -/
  | ris
  /-- MIS, offset 0x40, read-only (R55). -/
  | mis
  /-- ICR, offset 0x44, write-only (R56); what a read returns is not in the source, so a read gives a free value
  (log entry 10). -/
  | icr (a : Access)
  deriving DecidableEq, Repr

end Sys2Proof
end

