-- ==== Sys2Proof/WellFormed.lean ====
section
/-! DEFINITION. What an instruction must satisfy to have an encoding: each operand fits its field
(R114, R116, R117 of 30_encoding.md, R180 of 41_async_write.md). -/

namespace Sys2Proof

/-- The operand of a CONSTRUCT fits AW bits, of a DRIVE HW bits, and the length of a BEGIN buffer LENW bits. -/
def Instr.wf (c : Config) : Instr → Bool
  | .construct base => decide (base < 2 ^ c.aw)
  | .init => true
  | .putc _ => true
  | .getc => true
  | .rxpend => true
  | .ack => true
  | .irq => true
  | .beginWrite bytes => decide (bytes.length < 2 ^ c.lenw)
  | .drive h => decide (h < 2 ^ c.hw)
  | .drop => true
  | .dr _ => true
  | .fr => true
  | .ibrd _ => true
  | .fbrd _ => true
  | .lcrh _ => true
  | .cr _ => true
  | .ifls _ => true
  | .imsc _ => true
  | .ris => true
  | .mis => true
  | .icr _ => true

end Sys2Proof
end

