-- ==== Sys2Proof/Decode.lean ====
section
/-! DEFINITION. The decoder and the encoder: the command stream (R110 to R118, R122, R129 of 30_encoding.md) and the
register transactions of the master port (R124 of 30_encoding.md, R44 of 10_state.md). -/

namespace Sys2Proof

/-! ### Little-endian operands (R111 of 30_encoding.md) -/

/-- The number whose bytes, least significant first, are the list. -/
def leNat : List Byte → Nat
  | [] => 0
  | b :: bs => b.toNat + 256 * leNat bs

/-- The n low bytes of v, least significant first. -/
def leBytes : Nat → Nat → List Byte
  | 0, _ => []
  | n + 1, v => BitVec.ofNat 8 v :: leBytes n (v / 256)

/-- The first n bytes of the stream and what follows them, or none when the stream is shorter. -/
def takeBytes (n : Nat) (bs : List Byte) : Option (List Byte × List Byte) :=
  if bs.length < n then none else some (bs.take n, bs.drop n)

/-! ### The command stream -/

/-- What the decoder finds at the head of the command stream (R129 of 30_encoding.md): a command and the bytes after
it, an illegal opcode byte (a command of length 1, R122) and the bytes after it, or an incomplete command. -/
inductive Decoded where
  | instr (i : Instr) (rest : List Byte)
  | illegal (op : Byte) (rest : List Byte)
  | incomplete
  deriving DecidableEq, Repr

/-- A command whose operand is a little-endian number of n bytes (formats A and H: R114, R116). -/
def decodeNumber (n : Nat) (bs : List Byte) (mk : Nat → Instr) : Decoded :=
  match takeBytes n bs with
  | none => .incomplete
  | some (v, rest) => .instr (mk (leNat v)) rest

/-- The operand of BEGIN: the length in LENW/8 bytes, then that many bytes (format V, R117, R118). -/
def decodeBuffer (n : Nat) (bs : List Byte) : Decoded :=
  match takeBytes n bs with
  | none => .incomplete
  | some (len, rest) =>
    match takeBytes (leNat len) rest with
    | none => .incomplete
    | some (bytes, rest') => .instr (.beginWrite bytes) rest'

/-- The operand of PUTC: one byte (format B, R115). -/
def decodeByte (bs : List Byte) : Decoded :=
  match bs with
  | [] => .incomplete
  | b :: rest => .instr (.putc b) rest

/-- The decoder of the command stream: the opcode alone gives the format (R110, R112, R118), every other opcode byte
is illegal (R122), and nothing of the block's state matters but its width parameters. -/
def decode (c : Config) (bs : List Byte) : Decoded :=
  match bs with
  | [] => .incomplete
  | op :: rest =>
    match op.toNat with
    | 0x0 => decodeNumber (c.aw / 8) rest .construct
    | 0x1 => .instr .init rest
    | 0x2 => decodeByte rest
    | 0x3 => .instr .getc rest
    | 0x4 => .instr .rxpend rest
    | 0x5 => .instr .ack rest
    | 0x6 => .instr .irq rest
    | 0x7 => decodeBuffer (c.lenw / 8) rest
    | 0x8 => decodeNumber (c.hw / 8) rest .drive
    | 0x9 => .instr .drop rest
    | _ => .illegal op rest

/-- One item of a decoded stream: a command or an illegal opcode byte. -/
inductive Item where
  | command (i : Instr)
  | illegal (op : Byte)
  deriving DecidableEq, Repr

/-- The whole stream as items and the undecoded tail (R129: at most one incomplete tail); the fuel is the length of
the stream, every item consuming at least one byte. -/
def decodeItems (c : Config) : Nat → List Byte → List Item × List Byte
  | 0, bs => ([], bs)
  | n + 1, bs =>
    match decode c bs with
    | .incomplete => ([], bs)
    | .illegal op rest => ((Item.illegal op :: (decodeItems c n rest).1), (decodeItems c n rest).2)
    | .instr i rest => ((Item.command i :: (decodeItems c n rest).1), (decodeItems c n rest).2)

/-- Every byte string is a sequence of commands and illegal commands and at most one incomplete tail (R129). -/
def decodeStream (c : Config) (bs : List Byte) : List Item × List Byte :=
  decodeItems c bs.length bs

/-! ### The register side -/

/-- The eleven offsets (R44 of 10_state.md, R124 of 30_encoding.md). -/
def regOffset : Reg → Nat
  | .dr => 0x00
  | .fr => 0x18
  | .ibrd => 0x24
  | .fbrd => 0x28
  | .lcrh => 0x2c
  | .cr => 0x30
  | .ifls => 0x34
  | .imsc => 0x38
  | .ris => 0x3c
  | .mis => 0x40
  | .icr => 0x44

/-- A transaction as it is presented at the register block: its kind (write or read), its offset under the table's
12-bit mask, its 32-bit data, which a read does not use and drives as 0 (R124 of 30_encoding.md). -/
structure Txn where
  write : Bool
  off : BitVec 12
  data : Word
  deriving DecidableEq, Repr

/-- Why a transaction is none of the register map: R57 of 10_state.md gives other offsets no meaning, and the access
column of R44 has no write of FR, RIS and MIS. -/
inductive TxnError where
  | noRegister (off : BitVec 12)
  | readOnly (r : Reg)
  deriving DecidableEq, Repr

/-- The kind and data of a transaction. -/
def Txn.access (t : Txn) : Access := if t.write then .write t.data else .read

/-- A transaction of a read-only register: an instruction when it reads. -/
def decodeReadOnly (t : Txn) (r : Reg) (i : Instr) : Except TxnError Instr :=
  if t.write then .error (.readOnly r) else .ok i

/-- The decoder of the register side: the offset selects the row. -/
def decodeTxn (t : Txn) : Except TxnError Instr :=
  match t.off.toNat with
  | 0x00 => .ok (.dr t.access)
  | 0x18 => decodeReadOnly t .fr .fr
  | 0x24 => .ok (.ibrd t.access)
  | 0x28 => .ok (.fbrd t.access)
  | 0x2c => .ok (.lcrh t.access)
  | 0x30 => .ok (.cr t.access)
  | 0x34 => .ok (.ifls t.access)
  | 0x38 => .ok (.imsc t.access)
  | 0x3c => decodeReadOnly t .ris .ris
  | 0x40 => decodeReadOnly t .mis .mis
  | 0x44 => .ok (.icr t.access)
  | _ => .error (.noRegister t.off)

/-! ### The encoder -/

/-- An instruction's code: the bytes of a command on the command port, or a transaction on the register side. -/
inductive Code where
  | command (bytes : List Byte)
  | transaction (t : Txn)
  deriving DecidableEq, Repr

/-- The transaction of an access at a register. -/
def txnOf (r : Reg) : Access → Txn
  | .read => { write := false, off := BitVec.ofNat 12 (regOffset r), data := 0 }
  | .write v => { write := true, off := BitVec.ofNat 12 (regOffset r), data := v }

/-- The encoder, from the format rules R112 to R117 and the register map R44. -/
def encode (c : Config) : Instr → Code
  | .construct base => .command (0x00#8 :: leBytes (c.aw / 8) base)
  | .init => .command [0x01#8]
  | .putc b => .command [0x02#8, b]
  | .getc => .command [0x03#8]
  | .rxpend => .command [0x04#8]
  | .ack => .command [0x05#8]
  | .irq => .command [0x06#8]
  | .beginWrite bytes => .command (0x07#8 :: (leBytes (c.lenw / 8) bytes.length ++ bytes))
  | .drive h => .command (0x08#8 :: leBytes (c.hw / 8) h)
  | .drop => .command [0x09#8]
  | .dr a => .transaction (txnOf .dr a)
  | .fr => .transaction (txnOf .fr .read)
  | .ibrd a => .transaction (txnOf .ibrd a)
  | .fbrd a => .transaction (txnOf .fbrd a)
  | .lcrh a => .transaction (txnOf .lcrh a)
  | .cr a => .transaction (txnOf .cr a)
  | .ifls a => .transaction (txnOf .ifls a)
  | .imsc a => .transaction (txnOf .imsc a)
  | .ris => .transaction (txnOf .ris .read)
  | .mis => .transaction (txnOf .mis .read)
  | .icr a => .transaction (txnOf .icr a)

/-- Decoding a code: the whole command and nothing after it, or the transaction. -/
def decodeCode (c : Config) : Code → Option Instr
  | .command bytes =>
    match decode c bytes with
    | .instr i [] => some i
    | .instr _ (_ :: _) => none
    | .illegal _ _ => none
    | .incomplete => none
  | .transaction t =>
    match decodeTxn t with
    | .ok i => some i
    | .error _ => none

/-! ### The rows of the opcode table -/

/-- The bytes of the longest fixed operand: the widest of base, handle and length. -/
def operandRoom (c : Config) : Nat := max (c.aw / 8) (max (c.hw / 8) (c.lenw / 8))

/-- The stream that presents a command row of the table: its bits in whole bytes, the first the opcode, then operand
bytes of zeros. -/
def rowStream (c : Config) (nbits w : Nat) : List Byte :=
  leBytes (nbits / 8) w ++ List.replicate (operandRoom c) 0#8

/-- The transaction that presents a register row of the table: its 12 bits are the offset, its kind and data bits are
zeros, so a read; bits above the 12 of the offset are no offset. -/
def rowTxn (w : Nat) : Option Txn :=
  if w < 4096 then some { write := false, off := BitVec.ofNat 12 w, data := 0 } else none

/-- The instruction the decoder reads from a row of spec/opcode_table.json: a row of one byte is a command (its mask is
0xFF), a row of two bytes a register (its mask is 0xFFF, 12 bits in two whole bytes), at the default widths. -/
def decodeTableWord (nbits w : Nat) : Option Instr :=
  if nbits ≤ 8 then
    match decode Config.default (rowStream Config.default nbits w) with
    | .instr i _ => some i
    | .illegal _ _ => none
    | .incomplete => none
  else
    match rowTxn w with
    | none => none
    | some t =>
      match decodeTxn t with
      | .ok i => some i
      | .error _ => none

end Sys2Proof
end

