-- ==== Sys2Proof/Machine/State.lean ====
section
/-! DEFINITION. The state of the machine as plain data: the block's registers (10_state.md), its ports
(92_eei_decisions.md D1), the environment it talks to (20_memory.md), and the state after reset (R62, R270, R271). -/

namespace Sys2Proof.Machine

/-- LIFE, the lifecycle register (R31 of 10_state.md). -/
inductive Life where
  | reset | ready | halted
  deriving DecidableEq, Repr

/-- OPST, the state of the write operation (R37 of 10_state.md). -/
inductive OpState where
  | none | active | suspended | complete
  deriving DecidableEq, Repr

/-- UPC, the sequencer phase: the label of the next micro-step of the foreground command in progress, idle between
commands (R38 of 10_state.md). -/
inductive Phase where
  | idle
  | c1 | c2 | c3
  | i1 | i2 | i3 | i4 | i5 | i6 | i7 | i8
  | p1 | p2
  | g1 | g2
  | q1
  | a1
  | b1
  | d1 | d2 | ds | d3 | d4 | d5
  | x1
  deriving DecidableEq, Repr

/-- IPC, the phase of the interrupt entry (R38 of 10_state.md, R210 of 42_interrupt_wake.md). -/
inductive EntryPhase where
  | idle | h1 | h2 | h3 | h4
  deriving DecidableEq, Repr

/-- The reasons of a refused command (R232 of 60_exceptions.md). -/
inductive Reason where
  | badOpcode | notConstructed | alreadyConstructed | opAlive | noOp | halted
  deriving DecidableEq, Repr

/-- The responses (R119 of 30_encoding.md). FATAL carries the fault code; the one fault is NullBase (R230). -/
inductive Response where
  | ok
  | byte (b : Byte)
  | bool (b : Bool)
  | suspended
  | complete (count : Nat)
  | fatal (code : Byte)
  | refused (r : Reason)
  deriving DecidableEq, Repr

/-- Where an IRQ command came from and where its response goes: the command port, or irq_req and irq_done
(R125 of 30_encoding.md). -/
inductive IrqPort where
  | command | request
  deriving DecidableEq, Repr

/-- One event of the trace (R80 of 20_memory.md): a command and its response, a RegRead or RegWrite of the block with
its address on the master port, a wake event. The last two are the accesses of another master (log entry 9). -/
inductive Event where
  | cmd (i : Instr)
  | badOpcode (op : Byte)
  | rsp (p : IrqPort) (x : Response)
  | read (r : Reg) (addr : Nat) (v : Word)
  | write (r : Reg) (addr : Nat) (v : Word)
  | wakeOut (h : Nat)
  | otherRead (r : Reg) (v : Word)
  | otherWrite (r : Reg) (v : Word)
  deriving DecidableEq, Repr

/-- The peripheral behind the master port: the oracle of R86, or the reference mock of R92 (20_memory.md). -/
inductive UartMode where
  | oracle | mock
  deriving DecidableEq, Repr

/-- The peripheral's side of the register map (R44 to R56 of 10_state.md, R59, R61, R92 of 20_memory.md). -/
structure Uart where
  mode : UartMode
  /-- the coming answers of FR (FRQ of the mock) -/
  frq : List Word
  /-- the received words not yet read, oldest first (RXQ of the mock, R90) -/
  rxq : List Word
  /-- the values written to DR, oldest first (the wire log R61, TXLOG of the mock) -/
  txlog : List Word
  /-- RIS, the pending sources -/
  ris : Word
  /-- IMSC, the mask -/
  imsc : Word
  ibrd : Word
  fbrd : Word
  lcrh : Word
  cr : Word
  ifls : Word
  /-- the last value written to ICR, which only the mock reads back (R92) -/
  icr : Word
  deriving DecidableEq, Repr

/-- The scratch values and operand latches of the command in progress (R39 of 10_state.md). -/
structure Scratch where
  /-- the last value read from Flags, from MIS, from Data -/
  f : Word
  m : Word
  d : Word
  /-- the handle operand of the DRIVE in progress -/
  h : Nat
  /-- the operands of PUTC, CONSTRUCT and BEGIN in progress -/
  b : Byte
  base : Nat
  bytes : List Byte
  deriving DecidableEq, Repr

/-- Ghost state: nothing of the block reads it (R40 of 10_state.md; log entry 18). -/
structure Ghost where
  /-- INITED: an INIT has run (R40) -/
  inited : Bool
  /-- the values the live operation wrote to DR, in order (R42 e) -/
  opWrites : List Word
  /-- the IRQ commands completed since CONSTRUCT (R42 f) -/
  irqsDone : Nat
  deriving DecidableEq, Repr

/-- One move of an agent (R22 of 00_scope.md, R292 of 70_reset_and_hazards.md; log entry 13). -/
inductive Move where
  /-- the block takes its next step -/
  | block
  /-- the host puts bytes on the command port (R110) -/
  | host (bytes : List Byte)
  /-- the platform dispatch issues one request on irq_req (R125, R238) -/
  | irq
  /-- the peripheral: its coming flag answers are these (R86) -/
  | flags (answers : List Word)
  /-- the peripheral: it receives a word (R90) -/
  | receive (w : Word)
  /-- the peripheral: it raises these sources (R87, R292) -/
  | raise (v : Word)
  /-- the peripheral: these sources are no longer pending, of its own accord (R77, R86) -/
  | lower (v : Word)
  /-- the oracle: its mask is now this, of its own accord (U1 of 93_implementation_defined.md; log entry 11); the mock's
  mask is set by a write only (R92) -/
  | mask (v : Word)
  /-- a test script sets RXQ of the mock (R92); the oracle is not scripted -/
  | mockRxq (ws : List Word)
  /-- a test script sets RIS of the mock (R92); the oracle is not scripted -/
  | mockRis (v : Word)
  /-- another master presents a transaction at the register block (R54, R289) -/
  | other (t : Txn)
  /-- the reset input is asserted (R270) -/
  | reset
  deriving DecidableEq, Repr

structure State where
  /-- the parameters, fixed for the machine (R11 to R15 of 00_scope.md) -/
  cfg : Config
  /-- LIFE (R31) -/
  life : Life
  /-- BASE (R32) -/
  base : Nat
  /-- WAKE (R33) -/
  wake : Option Nat
  /-- IRQCNT (R34), a natural number (R218) -/
  irqcnt : Nat
  /-- BUF and LEN (R35) -/
  buf : List Byte
  len : Nat
  /-- CUR (R36) -/
  cur : Nat
  /-- OPST (R37) -/
  opst : OpState
  /-- UPC and IPC (R38) -/
  upc : Phase
  ipc : EntryPhase
  /-- scratch and operand latches (R39) -/
  scr : Scratch
  /-- the port of the IRQ in progress (R125) -/
  irqPort : IrqPort
  /-- the command port: bytes not yet consumed (R110) -/
  cmdIn : List Byte
  /-- the response port: responses placed on it, oldest first (R119) -/
  rspOut : List Response
  /-- irq_req: requests waiting (R125, R246) -/
  irqReq : Nat
  /-- irq_done: responses placed on it, oldest first (R125, R245) -/
  irqDone : List Response
  /-- the wake port: handles placed on it, oldest first (R126) -/
  wakeOut : List Nat
  /-- the trace, oldest first (R80) -/
  trace : List Event
  /-- the peripheral (R9, R86) -/
  uart : Uart
  /-- the transaction another master presents (R124, R289) -/
  bus : Option Txn
  /-- the handles woken and not yet redriven, kept by the host's scheduler (R60) -/
  woken : List Nat
  /-- the coming moves of the agents -/
  sched : List Move
  /-- how many free values have been taken -/
  draws : Nat
  /-- the mark of R236: a command was refused in this run -/
  mark : Bool
  ghost : Ghost
  deriving DecidableEq, Repr

/-- Why the machine stops with a fault. -/
inductive Fault where
  /-- Raised by micro-step D4 of DRIVE when BUF has no byte at the cursor: R188 of 41_async_write.md says it cannot
  happen after D1, and no run reaches such a state. SAFE: the machine stops. -/
  | noByteAtCursor
  deriving DecidableEq, Repr

/-- Why the model has no next state for a step. -/
inductive Refusal where
  /-- Raised by exec's arm of an instruction that has no meaning yet. SAFE. -/
  | notModelled (mnemonic : String)
  /-- Raised by every RegRead and RegWrite of the block when BASE is no multiple of 4 (R75 of 20_memory.md, U9 of
  93_implementation_defined.md: the model refuses). SAFE. -/
  | baseMisaligned
  /-- Raised by every RegRead and RegWrite of the block when BASE + 0x47 reaches 2^AW (R71 of 20_memory.md, U9 of
  93_implementation_defined.md: the model refuses). SAFE. -/
  | addressOverflow
  /-- Raised by step when another master presents a transaction at an offset outside the eleven (R57 of 10_state.md: a
  model gives them no meaning). SAFE. -/
  | noRegister (off : BitVec 12)
  /-- Raised by step when another master presents a write of a read-only register (R44 of 10_state.md: FR, RIS and MIS
  have access R). SAFE. -/
  | readOnlyRegister (r : Reg)
  deriving DecidableEq, Repr

/-- The scratch values at reset: DESIGN CHOICE zeros (R62 gives none; log entry 3). -/
def Scratch.reset : Scratch where
  f := 0
  m := 0
  d := 0
  h := 0
  b := 0
  base := 0
  bytes := []

/-- The ghosts of a block no driver has been constructed on. -/
def Ghost.reset : Ghost where
  inited := false
  opWrites := []
  irqsDone := 0

/-- The peripheral as the block finds it after reset: an oracle whose registers hold free values
(R62 of 10_state.md, R271 of 70_reset_and_hazards.md; log entries 4 and 5). -/
def Uart.atReset : Uart where
  mode := .oracle
  frq := []
  rxq := []
  txlog := []
  ris := Config.uartAtReset (regOffset .ris)
  imsc := Config.uartAtReset (regOffset .imsc)
  ibrd := Config.uartAtReset (regOffset .ibrd)
  fbrd := Config.uartAtReset (regOffset .fbrd)
  lcrh := Config.uartAtReset (regOffset .lcrh)
  cr := Config.uartAtReset (regOffset .cr)
  ifls := Config.uartAtReset (regOffset .ifls)
  icr := Config.uartAtReset (regOffset .icr)

/-- The machine right after reset (R62 of 10_state.md, R270 of 70_reset_and_hazards.md). BASE, BUF, LEN, CUR and the
scratch values are unspecified there: DESIGN CHOICE zero and empty, log entry 3. -/
def State.reset : State where
  cfg := Config.default
  life := .reset
  base := 0
  wake := none
  irqcnt := 0
  buf := []
  len := 0
  cur := 0
  opst := .none
  upc := .idle
  ipc := .idle
  scr := Scratch.reset
  irqPort := .command
  cmdIn := []
  rspOut := []
  irqReq := 0
  irqDone := []
  wakeOut := []
  trace := []
  uart := Uart.atReset
  bus := none
  woken := []
  sched := []
  draws := 0
  mark := false
  ghost := Ghost.reset

end Sys2Proof.Machine
end

