-- ==== Sys2Proof/Machine/Flags.lean ====
section
/-! DEFINITION. The conditions the block tests. It has no flag register of its own (R43 of 10_state.md): every flag is
a bit of a word just read from the peripheral. -/

namespace Sys2Proof.Machine

/-- Flags bit 3, BUSY, transmit-busy (R46 of 10_state.md). -/
def txBusy (f : Word) : Bool := f.getLsbD 3

/-- Flags bit 4, RXFE, receive-FIFO-empty (R46). -/
def rxEmpty (f : Word) : Bool := f.getLsbD 4

/-- Flags bit 5, TXFF, transmit-FIFO-full (R46). -/
def txFull (f : Word) : Bool := f.getLsbD 5

/-- The receive bit of a masked status word (R159 of 40_driver_ops.md). -/
def rxPending (c : Config) (m : Word) : Bool := m.getLsbD c.rxBit

/-- The monitored condition of the interrupt entry (R212 of 42_interrupt_wake.md). -/
def wakeCondition (c : Config) (m : Word) : Bool := decide (m &&& c.wakeMask ≠ 0#32)

/-- The completion check of D1, an unsigned comparison (R183 of 41_async_write.md). -/
def writeDone (s : State) : Bool := decide (s.len ≤ s.cur)

end Sys2Proof.Machine
end

