-- ==== Sys2Proof/Machine/Operands.lean ====
section
/-! DEFINITION. How operands and results are formed (R121 of 30_encoding.md), and the fields of the registers that
have some (R49 to R52 of 10_state.md). -/

namespace Sys2Proof.Machine

/-- zext_32 of a byte: what a DR write carries (R121 a). -/
def zext32 (b : Byte) : Word := b.setWidth 32

/-- d[7:0] of a DR read (R121 b). -/
def low8 (d : Word) : Byte := d.setWidth 8

/-- BUF[i], absent at and past the end (R35 of 10_state.md). -/
def bufByte (s : State) (i : Nat) : Option Byte := s.buf[i]?

/-- A field of a register word: n bits from bit lsb up. -/
def field (w : Word) (lsb n : Nat) : Nat := (w >>> lsb).toNat % 2 ^ n

/-- The named fields of LCR_H (R50 of 10_state.md). -/
structure LineControl where
  breakSend : Bool
  parityEnable : Bool
  parityEven : Bool
  twoStop : Bool
  fifoEnable : Bool
  wordLength : Nat
  stickParity : Bool
  deriving DecidableEq, Repr

/-- WLEN codes 0 to 3 are word lengths 5 to 8 (R50). -/
def wordLengthOf (code : Nat) : Nat := code + 5

/-- The fields of an LCR_H word at the parameter positions (R50). -/
def lineControl (c : Config) (w : Word) : LineControl where
  breakSend := w.getLsbD c.brkBit
  parityEnable := w.getLsbD c.penBit
  parityEven := w.getLsbD c.epsBit
  twoStop := w.getLsbD c.stp2Bit
  fifoEnable := w.getLsbD c.fenBit
  wordLength := wordLengthOf (field w c.wlenBit 2)
  stickParity := w.getLsbD c.spsBit

/-- The named fields of CR (R51 of 10_state.md). -/
structure Control where
  uartEnable : Bool
  txEnable : Bool
  rxEnable : Bool
  deriving DecidableEq, Repr

/-- The fields of a CR word at the parameter positions (R51). -/
def control (c : Config) (w : Word) : Control where
  uartEnable := w.getLsbD c.uartenBit
  txEnable := w.getLsbD c.txeBit
  rxEnable := w.getLsbD c.rxeBit

/-- The trigger level fields of IFLS (R52 of 10_state.md). -/
structure TriggerLevels where
  tx : Nat
  rx : Nat
  deriving DecidableEq, Repr

/-- The fields of an IFLS word at the parameter positions (R52). -/
def triggerLevels (c : Config) (w : Word) : TriggerLevels where
  tx := field w c.txiflselBit 3
  rx := field w c.rxiflselBit 3

/-- What a trigger level code means, in eighths of the FIFO; codes 5 to 7 are reserved (R52). -/
def levelEighths : Nat → Option Nat
  | 0 => some 1
  | 1 => some 2
  | 2 => some 4
  | 3 => some 6
  | 4 => some 7
  | _ => none

/-- The interrupt sources of R49 of 10_state.md. -/
inductive Source where
  | ri | cts | dcd | dsr | rx | tx | rt | fe | pe | be | oe
  deriving DecidableEq, Repr

/-- The bit of a source, the same in IMSC, RIS, MIS and ICR; receive and transmit are parameters (R12, R49). -/
def sourceBit (c : Config) : Source → Nat
  | .ri => 0
  | .cts => 1
  | .dcd => 2
  | .dsr => 3
  | .rx => c.rxBit
  | .tx => c.txBit
  | .rt => 6
  | .fe => 7
  | .pe => 8
  | .be => 9
  | .oe => 10

/-- Source i is pending in a status word. -/
def sourcePending (c : Config) (w : Word) (x : Source) : Bool := w.getLsbD (sourceBit c x)

end Sys2Proof.Machine
end

