-- ==== Sys2Proof/Machine/Uart.lean ====
section
/-! DEFINITION. The peripheral's side of an access: what a read answers and what reads and writes change
(R45 to R56 and R59 of 10_state.md, R77, R86 to R92 of 20_memory.md). The block reaches it through RegRead and
RegWrite only (Ops.lean), another master through otherAccess (Ops.lean). -/

namespace Sys2Proof.Machine

/-- MIS = RIS & IMSC, bit by bit (R88 of 20_memory.md). -/
def maskedStatus (u : Uart) : Word := u.ris &&& u.imsc

/-- The interrupt line, asserted while any masked source is pending (R91 of 20_memory.md). It does not enter the block. -/
def irqLine (u : Uart) : Bool := decide (maskedStatus u ≠ 0#32)

/-- What a read of a configuration register or of ICR answers: the last value written on the mock (R92), any value on
the oracle (U1 of 93_implementation_defined.md; R56 for ICR; log entries 10 and 11). -/
def lastWritten (u : Uart) (n : Nat) (v : Word) : Word :=
  match u.mode with
  | .mock => v
  | .oracle => Config.freeWord n

/-- What a read of register r answers; n is the counter of free values.
Oracle (R86): FR gives its next answer, DR the oldest word not yet read (R90), each a free value when the state holds
none; IMSC gives the mask, RIS the pending sources and MIS their R88, in every bit (log entry 12); every other register
any value. Mock: R92. -/
def uartAnswer (u : Uart) (n : Nat) : Reg → Word
  | .dr =>
    match u.rxq with
    | v :: _ => v
    | [] =>
      match u.mode with
      | .mock => 0
      | .oracle => Config.freeWord n
  | .fr =>
    match u.frq with
    | v :: _ => v
    | [] => Config.freeWord n
  | .ibrd => lastWritten u n u.ibrd
  | .fbrd => lastWritten u n u.fbrd
  | .lcrh => lastWritten u n u.lcrh
  | .cr => lastWritten u n u.cr
  | .ifls => lastWritten u n u.ifls
  | .imsc => u.imsc
  | .ris => u.ris
  | .mis => maskedStatus u
  | .icr => lastWritten u n u.icr

/-- The FR answers left after a read: the mock repeats its last answer for ever (R92), the oracle goes on to free
values. -/
def frqAfterRead (mode : UartMode) : List Word → List Word
  | [] => []
  | [v] =>
    match mode with
    | .mock => [v]
    | .oracle => []
  | _ :: w :: rest => w :: rest

/-- What a read changes in the peripheral: a read of DR removes the oldest received word, a read of FR moves to the
next answer, every other read changes nothing (R77). -/
def uartAfterRead (u : Uart) : Reg → Uart
  | .dr => { u with rxq := u.rxq.tail }
  | .fr => { u with frq := frqAfterRead u.mode u.frq }
  | .ibrd => u
  | .fbrd => u
  | .lcrh => u
  | .cr => u
  | .ifls => u
  | .imsc => u
  | .ris => u
  | .mis => u
  | .icr => u

/-- What a write changes in the peripheral: DR queues the value (R45, R90), the configuration registers and IMSC take
it (R77), ICR clears every pending source whose bit is 1 (R56, R87). The read-only registers are never written: the
block has no such access (R58) and another master's is no instruction. -/
def uartAfterWrite (u : Uart) (v : Word) : Reg → Uart
  | .dr => { u with txlog := u.txlog ++ [v] }
  | .fr => u
  | .ibrd => { u with ibrd := v }
  | .fbrd => { u with fbrd := v }
  | .lcrh => { u with lcrh := v }
  | .cr => { u with cr := v }
  | .ifls => { u with ifls := v }
  | .imsc => { u with imsc := v }
  | .ris => u
  | .mis => u
  | .icr => { u with ris := u.ris &&& ~~~ v, icr := v }

/-- A peripheral that is the reference mock with the given flag script, everything else empty (R92: CFG reads 0 before
a write). -/
def mockUart (frq : List Word) : Uart where
  mode := .mock
  frq := frq
  rxq := []
  txlog := []
  ris := 0
  imsc := 0
  ibrd := 0
  fbrd := 0
  lcrh := 0
  cr := 0
  ifls := 0
  icr := 0

end Sys2Proof.Machine
end

