-- ==== Sys2Proof/Machine/Ops.lean ====
section
/-! DEFINITION. The shared operations: RegRead and RegWrite (R18 of 00_scope.md), the responses and refusals (R119 of
30_encoding.md, R232 of 60_exceptions.md), the admission check (R233), the one exception (R230, R231), the interrupt
entry's taking and return (R244, R245), the wake cell's three updates (R83 of 20_memory.md), the reset input (R270),
and the access of another master. -/

namespace Sys2Proof.Machine

/-- What a step of the machine answers. -/
abbrev Out := Host.Outcome State Fault Refusal

/-- Go on from a next state; a fault and a refusal stay. -/
def andThen (o : Out) (k : State → Out) : Out :=
  match o with
  | .next s => k s
  | .fault r => .fault r
  | .refused r => .refused r

/-! ### The master port -/

/-- The address BASE + off, without wrap (R71 of 20_memory.md). -/
def regAddr (s : State) (r : Reg) : Nat := s.base + regOffset r

/-- Why the model refuses an access, if it does: the launch premises of R71 and R75 (U9). -/
def accessRefusal (s : State) : Option Refusal :=
  if s.base % 4 ≠ 0 then some .baseMisaligned
  else if 2 ^ s.cfg.aw ≤ s.base + 0x47 then some .addressOverflow
  else none

/-- The word a read of r answers in this state. -/
def answer (s : State) (r : Reg) : Word := uartAnswer s.uart s.draws r

/-- The state after the block's read of r: the event in the trace, the peripheral's side effect, one free value passed. -/
def afterRead (s : State) (r : Reg) : State :=
  { s with
    uart := uartAfterRead s.uart r
    draws := s.draws + 1
    trace := s.trace ++ [.read r (regAddr s r) (answer s r)] }

/-- The state after the block's write of v to r. -/
def afterWrite (s : State) (r : Reg) (v : Word) : State :=
  { s with
    uart := uartAfterWrite s.uart v r
    trace := s.trace ++ [.write r (regAddr s r) v] }

/-- RegRead(off), then what the micro-step does with the word (R18). -/
def regRead (r : Reg) (s : State) (k : Word → State → Out) : Out :=
  match accessRefusal s with
  | some e => .refused e
  | none => k (answer s r) (afterRead s r)

/-- RegWrite(off, v), then the rest of the micro-step (R18). -/
def regWrite (r : Reg) (v : Word) (s : State) (k : State → Out) : Out :=
  match accessRefusal s with
  | some e => .refused e
  | none => k (afterWrite s r v)

/-- One transaction of another master at the register block (R54 of 10_state.md, R289 of 70_reset_and_hazards.md; log
entry 9): the same peripheral, an event of its own, no register of the block. -/
def otherAccess (r : Reg) (a : Access) (s : State) : State :=
  match a with
  | .read =>
    { s with
      uart := uartAfterRead s.uart r
      draws := s.draws + 1
      trace := s.trace ++ [.otherRead r (answer s r)] }
  | .write v =>
    { s with
      uart := uartAfterWrite s.uart v r
      trace := s.trace ++ [.otherWrite r v] }

/-! ### Commands, responses, refusals -/

/-- The command's event in the trace (R80). -/
def logCmd (i : Instr) (s : State) : State := { s with trace := s.trace ++ [.cmd i] }

/-- Place one response on the port the command came by: the response port, or irq_done (R119, R125). -/
def placeResponse (p : IrqPort) (x : Response) (s : State) : State :=
  match p with
  | .command => { s with rspOut := s.rspOut ++ [x], trace := s.trace ++ [.rsp .command x] }
  | .request => { s with irqDone := s.irqDone ++ [x], trace := s.trace ++ [.rsp .request x] }

/-- respond X: the response on the response port, and the foreground command ends (R19 of 00_scope.md). -/
def respond (x : Response) (s : State) : State := { placeResponse .command x s with upc := .idle }

/-- refuse(reason): the response REFUSED and the run's mark, nothing else (R232, R236; log entry 7). -/
def refuse (p : IrqPort) (r : Reason) (s : State) : State :=
  { placeResponse p (.refused r) s with mark := true }

/-- The admission check of a command that needs the driver to itself: INIT, PUTC, GETC, RXPEND, ACK, BEGIN (R233). -/
def needDriver (s : State) : Option Reason :=
  match s.life with
  | .halted => some .halted
  | .reset => some .notConstructed
  | .ready => if s.opst = .none then none else some .opAlive

/-- The admission check of DRIVE and DROP (R233). -/
def needOperation (s : State) : Option Reason :=
  match s.life with
  | .halted => some .halted
  | .reset => some .notConstructed
  | .ready => if s.opst = .none then some .noOp else none

/-- The admission check of IRQ (R233, R272 of 70_reset_and_hazards.md). -/
def needReady (s : State) : Option Reason :=
  match s.life with
  | .halted => some .halted
  | .reset => some .notConstructed
  | .ready => none

/-- The admission check of CONSTRUCT (R233, R152 c of 40_driver_ops.md). With an operation alive the reason is
ALREADY_CONSTRUCTED, as R232, R233 and R152 c say, and not the OP_ALIVE of entry C3 of 90_conflicts.md (DEDUCED, log
entry 35). -/
def needReset (s : State) : Option Reason :=
  match s.life with
  | .halted => some .halted
  | .ready => some .alreadyConstructed
  | .reset => none

/-- The opcode check comes before every other (R233): the byte is consumed and refused BAD_OPCODE (R122). -/
def refuseOpcode (op : Byte) (s : State) : State :=
  refuse .command .badOpcode { s with trace := s.trace ++ [.badOpcode op] }

/-! ### The exception -/

/-- The fault code of NullBase (R230). -/
def nullBaseCode : Byte := 1

/-- raise NullBase: nothing is saved, LIFE becomes HALTED, the response is FATAL 1 (R151 of 40_driver_ops.md, R230,
R231 of 60_exceptions.md; log entry 8). -/
def raiseNullBase (s : State) : State := respond (.fatal nullBaseCode) { s with life := .halted }

/-! ### The interrupt entry: taking it and returning from it -/

/-- Taking the interrupt: nothing is saved or switched, control goes to H1; the port is kept so that the response finds
its way (R244, R125). -/
def takeIrq (p : IrqPort) (s : State) : State := { s with ipc := .h1, irqPort := p }

/-- Return: the response OK on the port the request came by, nothing restored (R245); one more IRQ completed. -/
def returnIrq (s : State) : State :=
  { placeResponse s.irqPort .ok s with
    ipc := .idle
    ghost := { s.ghost with irqsDone := s.ghost.irqsDone + 1 } }

/-! ### The three indivisible updates (R83 of 20_memory.md) -/

/-- The registration WAKE <- some(h), overwriting (R187 of 41_async_write.md). -/
def registerWake (h : Nat) (s : State) : State := { s with wake := some h }

/-- The count IRQCNT <- IRQCNT + 1 (R211 of 42_interrupt_wake.md). -/
def countIrq (s : State) : State := { s with irqcnt := s.irqcnt + 1 }

/-- emit WAKE_OUT(h): the event on the wake port, and the scheduler's set gains h (R19, R60, R126). -/
def emitWake (h : Nat) (s : State) : State :=
  { s with
    wakeOut := s.wakeOut ++ [h]
    woken := if h ∈ s.woken then s.woken else s.woken ++ [h]
    trace := s.trace ++ [.wakeOut h] }

/-- The fire: read WAKE, emit, and empty it when WAKE_FIRE_CLEARS (R213, R214 of 42_interrupt_wake.md). -/
def fireWake (s : State) : State :=
  match s.wake with
  | none => s
  | some w =>
    let t := emitWake w s
    { t with wake := if s.cfg.wakeFireClears then none else some w }

/-! ### The scheduler and the reset input -/

/-- The host removes h from its woken handles when it redrives (R60 of 10_state.md; log entry 22). -/
def takeWoken (h : Nat) (s : State) : State := { s with woken := s.woken.filter (fun x => decide (x ≠ h)) }

/-- The reset input (R270, R271 of 70_reset_and_hazards.md): every register of the block at its reset value, a command
in progress abandoned without a response, no access, the peripheral and the ports outside untouched (log entry 21). -/
def resetInput (s : State) : State :=
  { State.reset with
    cfg := s.cfg
    cmdIn := s.cmdIn
    rspOut := s.rspOut
    irqReq := s.irqReq
    irqDone := s.irqDone
    wakeOut := s.wakeOut
    trace := s.trace
    uart := s.uart
    bus := s.bus
    woken := s.woken
    sched := s.sched
    draws := s.draws
    mark := s.mark }

end Sys2Proof.Machine
end

