-- ==== Sys2Proof/Machine/Ports.lean ====
section
/-! DEFINITION. What the ports show: the bytes of responses (R119, R120 of 30_encoding.md) and wake events (R126), and
the status port (R41 of 10_state.md). -/

namespace Sys2Proof.Machine

/-- The reason bytes (R232 of 60_exceptions.md). -/
def reasonCode : Reason → Byte
  | .badOpcode => 1
  | .notConstructed => 2
  | .alreadyConstructed => 3
  | .opAlive => 4
  | .noOp => 5
  | .halted => 6

/-- The bytes of a response: one status byte and its payload (R119). -/
def responseBytes (c : Config) : Response → List Byte
  | .ok => [0x00]
  | .byte b => [0x01, b]
  | .bool b => [0x02, if b then 0x01 else 0x00]
  | .suspended => [0x03]
  | .complete n => 0x04 :: leBytes (c.lenw / 8) n
  | .fatal code => [0xFE, code]
  | .refused r => [0xFF, reasonCode r]

/-- The bytes of a wake event (R126). -/
def wakeBytes (c : Config) (h : Nat) : List Byte := 0x80 :: leBytes (c.hw / 8) h

/-- The byte stream of the response port so far. -/
def responseStream (s : State) : List Byte := s.rspOut.flatMap (responseBytes s.cfg)

/-- The byte stream of the wake port so far. -/
def wakeStream (s : State) : List Byte := s.wakeOut.flatMap (wakeBytes s.cfg)

/-- The responses each command can give when it ends (R120); a register row gives none. -/
def mayRespond : Instr → Response → Bool
  | .construct _, .ok => true
  | .construct _, .fatal _ => true
  | .init, .ok => true
  | .putc _, .ok => true
  | .getc, .byte _ => true
  | .rxpend, .bool _ => true
  | .ack, .ok => true
  | .irq, .ok => true
  | .beginWrite _, .ok => true
  | .drive _, .suspended => true
  | .drive _, .complete _ => true
  | .drop, .ok => true
  | .construct _, .refused _ => true
  | .init, .refused _ => true
  | .putc _, .refused _ => true
  | .getc, .refused _ => true
  | .rxpend, .refused _ => true
  | .ack, .refused _ => true
  | .irq, .refused _ => true
  | .beginWrite _, .refused _ => true
  | .drive _, .refused _ => true
  | .drop, .refused _ => true
  | _, _ => false

/-- The codes of LIFE and OPST (R31, R37 of 10_state.md). -/
def lifeCode : Life → BitVec 2
  | .reset => 0
  | .ready => 1
  | .halted => 2

def opStateCode : OpState → BitVec 2
  | .none => 0
  | .active => 1
  | .suspended => 2
  | .complete => 3

/-- The continuously readable outputs of the block (R41). -/
structure Status where
  life : BitVec 2
  opst : BitVec 2
  cur : Nat
  len : Nat
  wakeValid : Bool
  wakeHandle : Nat
  irqcnt : Nat
  deriving DecidableEq, Repr

/-- The status port (R41); the handle of an empty cell is shown as 0 (DESIGN CHOICE, log entry 19). -/
def statusPort (s : State) : Status where
  life := lifeCode s.life
  opst := opStateCode s.opst
  cur := s.cur
  len := s.len
  wakeValid := s.wake.isSome
  wakeHandle := s.wake.getD 0
  irqcnt := s.irqcnt

/-- The wire log of a trace: the values the block and other masters wrote to DR, in order (R61 of 10_state.md). -/
def wireLog : List Event → List Word
  | [] => []
  | .write .dr _ v :: rest => v :: wireLog rest
  | .otherWrite .dr v :: rest => v :: wireLog rest
  | _ :: rest => wireLog rest

end Sys2Proof.Machine
end

