-- ==== Sys2Proof/Machine/Sequencer.lean ====
section
/-! DEFINITION. The micro-steps of every command, label by label (R20 of 00_scope.md, R150 to R160 of 40_driver_ops.md,
R180 to R190 of 41_async_write.md, R210 to R215 of 42_interrupt_wake.md), and how many of them one step runs. -/

namespace Sys2Proof.Machine

/-! ### CONSTRUCT (R150, R151 of 40_driver_ops.md) -/

def microC1 (s : State) : Out :=
  .next { s with upc := if s.scr.base = 0 then .c2 else .c3 }

def microC2 (s : State) : Out := .next (raiseNullBase s)

def microC3 (s : State) : Out :=
  .next (respond .ok
    { s with
      base := s.scr.base
      wake := none
      irqcnt := 0
      opst := .none
      life := .ready
      ghost := { s.ghost with opWrites := [], irqsDone := 0 } })

/-! ### INIT (R153 of 40_driver_ops.md) -/

/-- One write of INIT and the label of the next. -/
def microInit (r : Reg) (v : Word) (p : Phase) (s : State) : Out :=
  regWrite r v s fun t => .next { t with upc := p }

def microI8 (s : State) : Out :=
  .next (respond .ok { s with ghost := { s.ghost with inited := true } })

/-! ### PUTC (R155 of 40_driver_ops.md) -/

def microP1 (s : State) : Out :=
  regRead .fr s fun f t =>
    .next { t with scr := { t.scr with f := f }, upc := if txBusy f then .p1 else .p2 }

def microP2 (s : State) : Out :=
  regWrite .dr (zext32 s.scr.b) s fun t => .next (respond .ok t)

/-! ### GETC (R157 of 40_driver_ops.md) -/

def microG1 (s : State) : Out :=
  regRead .fr s fun f t =>
    .next { t with scr := { t.scr with f := f }, upc := if rxEmpty f then .g1 else .g2 }

def microG2 (s : State) : Out :=
  regRead .dr s fun d t => .next (respond (.byte (low8 d)) { t with scr := { t.scr with d := d } })

/-! ### RXPEND and ACK (R159, R160 of 40_driver_ops.md) -/

def microQ1 (s : State) : Out :=
  regRead .mis s fun m t =>
    .next (respond (.bool (rxPending s.cfg m)) { t with scr := { t.scr with m := m } })

def microA1 (s : State) : Out :=
  regWrite .icr s.cfg.clearAll s fun t => .next (respond .ok t)

/-! ### BEGIN (R180, R181 of 41_async_write.md) -/

def microB1 (s : State) : Out :=
  .next (respond .ok
    { s with
      buf := s.scr.bytes
      len := s.scr.bytes.length
      cur := 0
      opst := if s.scr.bytes.length = 0 then .complete else .active
      ghost := { s.ghost with opWrites := [] } })

/-! ### DRIVE (R182 to R189 of 41_async_write.md) -/

/-- D1, the completion check (R183). -/
def microD1 (s : State) : Out :=
  if writeDone s then .next (respond (.complete s.cur) { s with opst := .complete })
  else .next { s with upc := .d2 }

/-- D2, the backpressure check (R185). -/
def microD2 (s : State) : Out :=
  regRead .fr s fun f t =>
    if txFull f then .next { t with scr := { t.scr with f := f }, upc := .ds }
    else .next { t with scr := { t.scr with f := f }, upc := .d3, opst := .active }

/-- DS, suspension (R187). -/
def microDS (s : State) : Out :=
  .next (respond .suspended { registerWake s.scr.h s with opst := .suspended })

/-- D3, the busy spin (R186). -/
def microD3 (s : State) : Out :=
  regRead .fr s fun f t =>
    .next { t with scr := { t.scr with f := f }, upc := if txBusy f then .d3 else .d4 }

/-- D4, the data write (R188). -/
def microD4 (s : State) : Out :=
  match bufByte s s.cur with
  | none => .fault .noByteAtCursor
  | some b =>
    regWrite .dr (zext32 b) s fun t =>
      .next { t with upc := .d5, ghost := { t.ghost with opWrites := t.ghost.opWrites ++ [zext32 b] } }

/-- D5, the cursor advance (R189). -/
def microD5 (s : State) : Out := .next { s with cur := s.cur + 1, upc := .d1 }

/-! ### DROP (R190 of 41_async_write.md) -/

/-- X1: the registration is kept or not, a free value (log entry 6); BUF, LEN and CUR are left as they are (log entry
24). -/
def microX1 (s : State) : Out :=
  .next (respond .ok
    { s with
      opst := .none
      wake := if Config.dropKeepsWake s.draws then s.wake else none
      draws := s.draws + 1
      ghost := { s.ghost with opWrites := [] } })

/-! ### The foreground sequencer -/

/-- The micro-step the phase register selects (R38 of 10_state.md). -/
def micro (s : State) : Out :=
  match s.upc with
  | .idle => .next s
  | .c1 => microC1 s
  | .c2 => microC2 s
  | .c3 => microC3 s
  | .i1 => microInit .cr s.cfg.crOffVal .i2 s
  | .i2 => microInit .ibrd s.cfg.ibrdVal .i3 s
  | .i3 => microInit .fbrd s.cfg.fbrdVal .i4 s
  | .i4 => microInit .lcrh s.cfg.lcrhVal .i5 s
  | .i5 => microInit .ifls s.cfg.iflsVal .i6 s
  | .i6 => microInit .imsc s.cfg.imscAll .i7 s
  | .i7 => microInit .cr s.cfg.crOnVal .i8 s
  | .i8 => microI8 s
  | .p1 => microP1 s
  | .p2 => microP2 s
  | .g1 => microG1 s
  | .g2 => microG2 s
  | .q1 => microQ1 s
  | .a1 => microA1 s
  | .b1 => microB1 s
  | .d1 => microD1 s
  | .d2 => microD2 s
  | .ds => microDS s
  | .d3 => microD3 s
  | .d4 => microD4 s
  | .d5 => microD5 s
  | .x1 => microX1 s

/-- No other agent can move before the next micro-step of a foreground command: no move is scheduled, no other master
waits, and no interrupt entry may be served inside the command (R243; log entry 25 says why several micro-steps may
then be one step). -/
def quiet (s : State) : Bool :=
  s.sched.isEmpty && s.bus.isNone && !(s.cfg.irqPreempts && decide (0 < s.irqReq))

/-- Micro-steps of the command in progress, until it responds or a spin has polled once in vain. -/
def runMicros : Nat → State → Out
  | 0, s => .next s
  | n + 1, s =>
    andThen (micro s) fun t =>
      if t.upc = .idle ∨ t.upc = s.upc then .next t else runMicros n t

/-- More micro-steps than any command makes before it responds or polls in vain: five for each byte still to send, and
a few. A command cut short by it would go on at the next step. -/
def microBudget (s : State) : Nat := 5 * (s.len - s.cur) + 9

/-- One step of the foreground command in progress: one micro-step where another agent may move before the next one,
the micro-steps up to the response or the next poll where none can. -/
def advance (s : State) : Out :=
  if quiet s then runMicros (microBudget s) s else micro s

/-- The acceptance of a command, its phase at the first label: a step of its own where another agent may move before the
first micro-step, so that an interrupt can run inside a command of one micro-step too (R280 of
70_reset_and_hazards.md), and one step with the micro-steps where none can (log entry 25). -/
def accept (s : State) : Out :=
  if quiet s then runMicros (microBudget s) s else .next s

/-- The command i is presented: the admission check (R233: it comes before the first micro-step), then the acceptance at
the first label p, with the operands latched by the function given. -/
def startCommand (i : Instr) (check : Option Reason) (p : Phase) (latch : State → State) (s : State) : Out :=
  match check with
  | some r => .next (refuse .command r (logCmd i s))
  | none => accept { latch (logCmd i s) with upc := p }

/-! ### The interrupt entry (R210 to R216 of 42_interrupt_wake.md) -/

/-- H1, the counter (R211). -/
def entryH1 (s : State) : Out := .next { countIrq s with ipc := .h2 }

/-- H2, the monitored condition (R212). -/
def entryH2 (s : State) : Out :=
  regRead .mis s fun m t =>
    .next { t with scr := { t.scr with m := m }, ipc := if wakeCondition s.cfg m then .h3 else .h4 }

/-- H3, the fire (R213, R214). -/
def entryH3 (s : State) : Out := .next { fireWake s with ipc := .h4 }

/-- H4, the acknowledge and the response (R215). -/
def entryH4 (s : State) : Out :=
  regWrite .icr s.cfg.clearAll s fun t => .next (returnIrq t)

/-- The micro-step the entry's phase register selects. -/
def entryMicro (s : State) : Out :=
  match s.ipc with
  | .idle => .next s
  | .h1 => entryH1 s
  | .h2 => entryH2 s
  | .h3 => entryH3 s
  | .h4 => entryH4 s

/-- No other agent can move before the entry's next micro-step; the entry is never interrupted by the block itself
(R243, R246). -/
def entryQuiet (s : State) : Bool := s.sched.isEmpty && s.bus.isNone

/-- Micro-steps of the entry, until it responds. -/
def runEntry : Nat → State → Out
  | 0, s => .next s
  | n + 1, s =>
    andThen (entryMicro s) fun t => if t.ipc = .idle then .next t else runEntry n t

/-- One step of the entry in progress: all its micro-steps where no other agent can move between them, one where one
can. -/
def advanceEntry (s : State) : Out :=
  if entryQuiet s then runEntry 4 s else entryMicro s

/-- An IRQ command that came by port p: the admission check, then the entry (R210, R233, R244). -/
def startIrq (p : IrqPort) (s : State) : Out :=
  match needReady s with
  | some r => .next (refuse p r (logCmd .irq s))
  | none => advanceEntry (takeIrq p (logCmd .irq s))

end Sys2Proof.Machine
end

