-- ==== Sys2Proof/Machine/AsyncWrite.lean ====
section
/-! DEFINITION. The async write operation: BEGIN, DRIVE and DROP (41_async_write.md). -/

namespace Sys2Proof.Machine

/-- BEGIN bytes (R180, R181): the buffer is captured, no access. -/
def execBegin (bytes : List Byte) (s : State) : Out :=
  startCommand (.beginWrite bytes) (needDriver s) .b1
    (fun t => { t with scr := { t.scr with bytes := bytes } }) s

/-- DRIVE handle (R182): the byte loop up to suspension or completion. The scheduler's woken set loses the handle
(R60 of 10_state.md). -/
def execDrive (h : Nat) (s : State) : Out :=
  startCommand (.drive h) (needOperation s) .d1
    (fun t => takeWoken h { t with scr := { t.scr with h := h } }) s

/-- DROP (R190): the operation ends, no access. -/
def execDrop (s : State) : Out :=
  startCommand .drop (needOperation s) .x1 (fun t => t) s

end Sys2Proof.Machine
end

