-- ==== Sys2Proof/Machine/Driver.lean ====
section
/-! DEFINITION. The driver operations CONSTRUCT, INIT, PUTC, GETC, RXPEND and ACK (40_driver_ops.md). -/

namespace Sys2Proof.Machine

/-- CONSTRUCT base (R150 to R152): admitted in LIFE = RESET. -/
def execConstruct (base : Nat) (s : State) : Out :=
  startCommand (.construct base) (needReset s) .c1
    (fun t => { t with scr := { t.scr with base := base } }) s

/-- INIT (R153, R154): seven writes, no read. -/
def execInit (s : State) : Out :=
  startCommand .init (needDriver s) .i1 (fun t => t) s

/-- PUTC byte (R155, R156): polls transmit-busy, then one DR write. -/
def execPutc (b : Byte) (s : State) : Out :=
  startCommand (.putc b) (needDriver s) .p1
    (fun t => { t with scr := { t.scr with b := b } }) s

/-- GETC (R157, R158): polls receive-FIFO-empty, then one DR read. -/
def execGetc (s : State) : Out :=
  startCommand .getc (needDriver s) .g1 (fun t => t) s

/-- RXPEND (R159): one MIS read. -/
def execRxpend (s : State) : Out :=
  startCommand .rxpend (needDriver s) .q1 (fun t => t) s

/-- ACK (R160, R161): one ICR write. -/
def execAck (s : State) : Out :=
  startCommand .ack (needDriver s) .a1 (fun t => t) s

end Sys2Proof.Machine
end

