-- ==== Sys2Proof/Machine/Interrupt.lean ====
section
/-! DEFINITION. The command IRQ (R210 of 42_interrupt_wake.md). -/

namespace Sys2Proof.Machine

/-- IRQ from the command stream, opcode 0x06, answered on the response port (R125 of 30_encoding.md). -/
def execIrq (s : State) : Out := startIrq .command s

end Sys2Proof.Machine
end

