-- ==== Sys2Proof/Machine/Registers.lean ====
section
/-! DEFINITION. The register rows of the opcode table: one transaction each at the peripheral (R44 to R56 of
10_state.md, R124 of 30_encoding.md), as another master makes it (R54, R289; log entry 9). The block's own accesses are
RegRead and RegWrite of Ops.lean at the same peripheral. -/

namespace Sys2Proof.Machine

/-- DR (R45): a read takes the oldest received word, a write queues a word for transmission. -/
def execDr (a : Access) (s : State) : Out := .next (otherAccess .dr a s)

/-- FR (R46): a read answers the flags. -/
def execFr (s : State) : Out := .next (otherAccess .fr .read s)

/-- IBRD (R47). -/
def execIbrd (a : Access) (s : State) : Out := .next (otherAccess .ibrd a s)

/-- FBRD (R48). -/
def execFbrd (a : Access) (s : State) : Out := .next (otherAccess .fbrd a s)

/-- LCR_H (R50). -/
def execLcrh (a : Access) (s : State) : Out := .next (otherAccess .lcrh a s)

/-- CR (R51). -/
def execCr (a : Access) (s : State) : Out := .next (otherAccess .cr a s)

/-- IFLS (R52). -/
def execIfls (a : Access) (s : State) : Out := .next (otherAccess .ifls a s)

/-- IMSC (R53). -/
def execImsc (a : Access) (s : State) : Out := .next (otherAccess .imsc a s)

/-- RIS (R54): a read answers the pending sources. -/
def execRis (s : State) : Out := .next (otherAccess .ris .read s)

/-- MIS (R55, R88): a read answers the pending sources the mask enables. -/
def execMis (s : State) : Out := .next (otherAccess .mis .read s)

/-- ICR (R56, R87): a write clears; what a read returns is not in the source (log entry 10). -/
def execIcr (a : Access) (s : State) : Out := .next (otherAccess .icr a s)

end Sys2Proof.Machine
end

