-- ==== Sys2Proof/Machine/Dispatch.lean ====
section
/-! DEFINITION. One arm per instruction. -/

namespace Sys2Proof.Machine

/-- The meaning of each instruction (R112 of 30_encoding.md, R44 of 10_state.md). -/
def exec (i : Instr) (s : State) : Host.Outcome State Fault Refusal :=
  match i with
  -- the commands, in the table's order
  | .construct base => Sys2Proof.Machine.execConstruct base s
  | .init => Sys2Proof.Machine.execInit s
  | .putc b => Sys2Proof.Machine.execPutc b s
  | .getc => Sys2Proof.Machine.execGetc s
  | .rxpend => Sys2Proof.Machine.execRxpend s
  | .ack => Sys2Proof.Machine.execAck s
  | .irq => Sys2Proof.Machine.execIrq s
  | .beginWrite bytes => Sys2Proof.Machine.execBegin bytes s
  | .drive h => Sys2Proof.Machine.execDrive h s
  | .drop => Sys2Proof.Machine.execDrop s
  -- the register rows
  | .dr a => Sys2Proof.Machine.execDr a s
  | .fr => Sys2Proof.Machine.execFr s
  | .ibrd a => Sys2Proof.Machine.execIbrd a s
  | .fbrd a => Sys2Proof.Machine.execFbrd a s
  | .lcrh a => Sys2Proof.Machine.execLcrh a s
  | .cr a => Sys2Proof.Machine.execCr a s
  | .ifls a => Sys2Proof.Machine.execIfls a s
  | .imsc a => Sys2Proof.Machine.execImsc a s
  | .ris => Sys2Proof.Machine.execRis s
  | .mis => Sys2Proof.Machine.execMis s
  | .icr a => Sys2Proof.Machine.execIcr a s

end Sys2Proof.Machine
end

