-- ==== Sys2Proof/Machine/Environment.lean ====
section
/-! DEFINITION. The moves of the agents outside the block (R22 of 00_scope.md, R92 of 20_memory.md, R292 of
70_reset_and_hazards.md), and where the block's next instruction comes from. -/

namespace Sys2Proof.Machine

/-- A move of the mock's test script: it has no effect on the oracle (R92, R93). -/
def scriptMock (f : Uart → Uart) (u : Uart) : Uart :=
  match u.mode with
  | .mock => f u
  | .oracle => u

/-- A move of the peripheral's own that the mock does not have: only a write of IMSC sets the mock's mask (R92, R93). -/
def oracleOnly (f : Uart → Uart) (u : Uart) : Uart :=
  match u.mode with
  | .oracle => f u
  | .mock => u

/-- The effect of one move; the block's own step is not a move of the environment. -/
def applyMove (m : Move) (s : State) : State :=
  match m with
  | .block => s
  | .host bytes => { s with cmdIn := s.cmdIn ++ bytes }
  | .irq => { s with irqReq := s.irqReq + 1 }
  | .flags answers => { s with uart := { s.uart with frq := answers } }
  | .lower v => { s with uart := { s.uart with ris := s.uart.ris &&& ~~~ v } }
  | .mask v => { s with uart := oracleOnly (fun u => { u with imsc := v }) s.uart }
  | .receive w => { s with uart := { s.uart with rxq := s.uart.rxq ++ [w] } }
  | .raise v => { s with uart := { s.uart with ris := s.uart.ris ||| v } }
  | .mockRxq ws => { s with uart := scriptMock (fun u => { u with rxq := ws }) s.uart }
  | .mockRis v => { s with uart := scriptMock (fun u => { u with ris := v }) s.uart }
  | .other t => { s with bus := some t }
  | .reset => resetInput s

/-- Another master's transaction: the instruction its row gives, or no meaning (R57 of 10_state.md, R44's access
column). -/
def serveBus (t : Txn) (s : State) : Out :=
  match decodeTxn t with
  | .ok i => exec i { s with bus := none }
  | .error (.noRegister off) => .refused (.noRegister off)
  | .error (.readOnly r) => .refused (.readOnlyRegister r)

/-- The next command of the command port: an illegal opcode byte is refused and consumed (R122), an incomplete command
leaves the block waiting (R122), a whole one is executed (R110). -/
def serveCommand (s : State) : Out :=
  match decode s.cfg s.cmdIn with
  | .instr i rest => exec i { s with cmdIn := rest }
  | .illegal op rest => .next (refuseOpcode op { s with cmdIn := rest })
  | .incomplete => .next s

/-- An interrupt request may be served now: one waits, and no foreground command is in progress, or it may be preempted
(R242, R243 of 60_exceptions.md). A request that may be served is served: R125 of 30_encoding.md says only that it may
be, between any two micro-steps, and that it comes before the next micro-step is the model's choice (log entry 33). -/
def mayServeIrq (s : State) : Bool :=
  decide (0 < s.irqReq) && (decide (s.upc = .idle) || s.cfg.irqPreempts)

/-- One step of the block: another master's access, which the one port orders before the block's next; the entry in
progress, which is never interrupted (R246); a waiting interrupt request, which comes before the foreground (R242; with
IRQ_PREEMPTS, before its next micro-step, DESIGN CHOICE, log entry 33); the command in progress; the next command. -/
def blockStep (s : State) : Out :=
  match s.bus with
  | some t => serveBus t s
  | none =>
    if s.ipc ≠ .idle then advanceEntry s
    else if mayServeIrq s then startIrq .request { s with irqReq := s.irqReq - 1 }
    else if s.upc ≠ .idle then advance s
    else serveCommand s

/-- Load the bytes of one command at the command port of an idle block with nothing else waiting. -/
def loadCommand (bytes : List Byte) (s : State) : State :=
  { s with cmdIn := bytes, upc := .idle, ipc := .idle, irqReq := 0, bus := none, sched := [] }

/-- Present one transaction of another master with no move scheduled before it. -/
def loadTxn (t : Option Txn) (s : State) : State := { s with bus := t, sched := [] }

end Sys2Proof.Machine
end

