-- ==== Sys2Proof/Machine/Step.lean ====
section
/-! DEFINITION. One step of the machine: the next scheduled move of an agent, or the block's own step where none is
scheduled. -/

namespace Sys2Proof.Machine

/-- The head of the schedule says which agent moves (R22 of 00_scope.md; log entry 13); with no move scheduled the
block runs alone. -/
def step (s : State) : Host.Outcome State Fault Refusal :=
  match s.sched with
  | [] => blockStep s
  | .block :: rest => blockStep { s with sched := rest }
  | m :: rest => .next (applyMove m { s with sched := rest })

/-- The state whose next step fetches and runs the row with the given bits: a command row at the command port, a
register row as the transaction presented at the register block (log entry 14). -/
def State.withFetchWord (s : State) (nbits w : Nat) : State :=
  if nbits ≤ 8 then loadCommand (rowStream s.cfg nbits w) s else loadTxn (rowTxn w) s

end Sys2Proof.Machine
end

