-- ==== Sys2Proof/Safety.lean ====
section
/-! DEFINITION. The terms statements are made in: the launch premises, the states a run can be in, the invariants of
R42 of 10_state.md, and what a safe run is. -/

namespace Sys2Proof.Machine

/-! ### Premises -/

/-- The launch premises on BASE: a multiple of 4, and BASE + 0x47 below 2^AW (R71, R75 of 20_memory.md, U9). -/
abbrev Launch (s : State) : Prop := s.base % 4 = 0 ∧ s.base + 0x47 < 2 ^ s.cfg.aw

/-- A driver exists and no write operation is alive: INIT, PUTC, GETC, RXPEND, ACK and BEGIN are admitted (R233). -/
abbrev DriverFree (s : State) : Prop := s.life = .ready ∧ s.opst = .none

/-- A write operation is alive: DRIVE and DROP are admitted (R233). -/
abbrev OperationAlive (s : State) : Prop := s.life = .ready ∧ s.opst ≠ .none

/-- Between commands: no foreground command and no interrupt entry in progress. -/
abbrev Between (s : State) : Prop := s.upc = .idle ∧ s.ipc = .idle

/-- Nothing outside the block is about to move, nothing waits at irq_req or from another master. -/
abbrev Alone (s : State) : Prop := s.sched = [] ∧ s.bus = none ∧ s.irqReq = 0

/-- The rows of the table that are commands of the command port (R112 of 30_encoding.md); the others are register
rows. -/
def isCommand : Instr → Bool
  | .construct _ => true
  | .init => true
  | .putc _ => true
  | .getc => true
  | .rxpend => true
  | .ack => true
  | .irq => true
  | .beginWrite _ => true
  | .drive _ => true
  | .drop => true
  | .dr _ => false
  | .fr => false
  | .ibrd _ => false
  | .fbrd _ => false
  | .lcrh _ => false
  | .cr _ => false
  | .ifls _ => false
  | .imsc _ => false
  | .ris => false
  | .mis => false
  | .icr _ => false

/-- The register a register row names. -/
def rowReg : Instr → Option Reg
  | .construct _ => none
  | .init => none
  | .putc _ => none
  | .getc => none
  | .rxpend => none
  | .ack => none
  | .irq => none
  | .beginWrite _ => none
  | .drive _ => none
  | .drop => none
  | .dr _ => some .dr
  | .fr => some .fr
  | .ibrd _ => some .ibrd
  | .fbrd _ => some .fbrd
  | .lcrh _ => some .lcrh
  | .cr _ => some .cr
  | .ifls _ => some .ifls
  | .imsc _ => some .imsc
  | .ris => some .ris
  | .mis => some .mis
  | .icr _ => some .icr

/-! ### The phases by command -/

/-- The labels of CONSTRUCT. -/
def constructing : Phase → Bool
  | .c1 => true
  | .c2 => true
  | .c3 => true
  | _ => false

/-- The label p is one of the micro-steps of the foreground command i; IRQ and the register rows have none. -/
def labelOf (i : Instr) (p : Phase) : Bool :=
  match i with
  | .construct _ => decide (p ∈ [Phase.c1, .c2, .c3])
  | .init => decide (p ∈ [Phase.i1, .i2, .i3, .i4, .i5, .i6, .i7, .i8])
  | .putc _ => decide (p ∈ [Phase.p1, .p2])
  | .getc => decide (p ∈ [Phase.g1, .g2])
  | .rxpend => decide (p = .q1)
  | .ack => decide (p = .a1)
  | .beginWrite _ => decide (p = .b1)
  | .drive _ => decide (p ∈ [Phase.d1, .d2, .ds, .d3, .d4, .d5])
  | .drop => decide (p = .x1)
  | .irq => false
  | .dr _ => false
  | .fr => false
  | .ibrd _ => false
  | .fbrd _ => false
  | .lcrh _ => false
  | .cr _ => false
  | .ifls _ => false
  | .imsc _ => false
  | .ris => false
  | .mis => false
  | .icr _ => false

/-- A step of the foreground command i, whichever step of it: its presentation, or a step of it while it is in
progress. -/
def StepOf (i : Instr) (s t : State) : Prop :=
  exec i s = .next t ∨ labelOf i s.upc = true ∧ advance s = .next t

/-- The labels of DRIVE and DROP, the commands that have an operation alive. -/
def operating : Phase → Bool
  | .d1 => true
  | .d2 => true
  | .ds => true
  | .d3 => true
  | .d4 => true
  | .d5 => true
  | .x1 => true
  | _ => false

/-- The labels of DRIVE past its completion check. -/
def pastCheck : Phase → Bool
  | .d2 => true
  | .ds => true
  | .d3 => true
  | .d4 => true
  | .d5 => true
  | _ => false

/-- The labels of DRIVE past its backpressure check. -/
def sending : Phase → Bool
  | .d3 => true
  | .d4 => true
  | .d5 => true
  | _ => false

/-- The three spins (R235 of 60_exceptions.md). -/
def spinning : Phase → Bool
  | .p1 => true
  | .g1 => true
  | .d3 => true
  | _ => false

/-- The bytes of the live operation that have been written to DR: CUR of them, and one more between D4 and D5. -/
def bytesSent (s : State) : Nat := if s.upc = .d5 then s.cur + 1 else s.cur

/-- The IRQ commands counted and not yet completed: one while the entry is past H1. -/
def countedInEntry : EntryPhase → Nat
  | .idle => 0
  | .h1 => 0
  | .h2 => 1
  | .h3 => 1
  | .h4 => 1

/-! ### The invariant every step keeps -/

/-- The invariants of R42 of 10_state.md, carried through the micro-steps, and what each phase presumes. -/
structure BlockInv (s : State) : Prop where
  /-- LEN is the length of BUF (R35) -/
  lenIsLength : s.len = s.buf.length
  /-- R42 a -/
  baseBound : s.life = .ready → s.base ≠ 0
  /-- R42 b -/
  cursorInBuffer : s.opst ≠ .none → s.cur ≤ s.len
  /-- R42 c; inside a DRIVE the cursor may have reached the length with OPST still ACTIVE -/
  unfinished : (s.opst = .active ∨ s.opst = .suspended) → s.cur < s.len ∨ s.upc = .d1
  /-- R42 d -/
  finished : s.opst = .complete → s.cur = s.len
  /-- R42 e -/
  dataWrites : s.opst ≠ .none → s.ghost.opWrites = (s.buf.take (bytesSent s)).map zext32
  /-- R42 f -/
  irqCount : s.irqcnt = s.ghost.irqsDone + countedInEntry s.ipc
  /-- an operation is alive only on a constructed driver -/
  aliveReady : s.opst ≠ .none → s.life = .ready
  /-- CONSTRUCT runs in RESET only -/
  constructPhase : constructing s.upc = true → s.life = .reset
  /-- C3 is reached with a base that is not null -/
  bindPhase : s.upc = .c3 → s.scr.base ≠ 0
  /-- every other command runs in READY only -/
  readyPhase : s.upc ≠ .idle → constructing s.upc = false → s.life = .ready
  /-- DRIVE and DROP run with an operation alive, the other commands with none -/
  operationPhase : s.upc ≠ .idle → (operating s.upc = true ↔ s.opst ≠ .none)
  /-- past D1 the cursor is below the length (R188) -/
  pastCheckPhase : pastCheck s.upc = true → s.cur < s.len
  /-- past D2 the operation is ACTIVE (R185) -/
  sendingPhase : sending s.upc = true → s.opst = .active
  /-- the interrupt entry runs in READY only -/
  entryReady : s.ipc ≠ .idle → s.life = .ready

/-- Every access of the block in the trace is one the access matrix R58 of 10_state.md lists: reads of FR, DR and MIS,
writes of DR, the configuration registers, IMSC and ICR. -/
def listedAccess : Event → Bool
  | .read .fr _ _ => true
  | .read .dr _ _ => true
  | .read .mis _ _ => true
  | .read _ _ _ => false
  | .write .dr _ _ => true
  | .write .ibrd _ _ => true
  | .write .fbrd _ _ => true
  | .write .lcrh _ _ => true
  | .write .cr _ _ => true
  | .write .ifls _ _ => true
  | .write .imsc _ _ => true
  | .write .icr _ _ => true
  | .write _ _ _ => false
  | _ => true

/-- The accesses of the block in a list of events, as (written, register) pairs in order (R58). -/
def blockAccesses : List Event → List (Bool × Reg)
  | [] => []
  | .read r _ _ :: rest => (false, r) :: blockAccesses rest
  | .write r _ _ :: rest => (true, r) :: blockAccesses rest
  | _ :: rest => blockAccesses rest

/-- The values the block wrote to DR in a list of events, in order. -/
def dataWritesOf : List Event → List Word
  | [] => []
  | .write .dr _ v :: rest => v :: dataWritesOf rest
  | _ :: rest => dataWritesOf rest

/-! ### Answers that let a DRIVE send -/

/-- The answers let k bytes go without a busy poll: for each byte one answer with TXFF clear, then one with BUSY clear
(R185, R186 of 41_async_write.md). -/
def letsSend : Nat → List Word → Bool
  | 0, _ => true
  | k + 1, f :: g :: rest => !txFull f && !txBusy g && letsSend k rest
  | _ + 1, [_] => false
  | _ + 1, [] => false

/-- The events of a DRIVE that sends k bytes without a busy poll, from cursor c on, under the answers fs. -/
def sendEvents (base : Nat) (buf : List Byte) : Nat → Nat → List Word → List Event
  | 0, _, _ => []
  | k + 1, c, f :: g :: rest =>
    .read .fr (base + 0x18) f :: .read .fr (base + 0x18) g ::
      .write .dr base (zext32 (buf.getD c 0)) :: sendEvents base buf k (c + 1) rest
  | _ + 1, _, [_] => []
  | _ + 1, _, [] => []

/-- The bytes a list of items was decoded from (R129 of 30_encoding.md). -/
def itemBytes (c : Config) : Item → List Byte
  | .illegal op => [op]
  | .command i =>
    match encode c i with
    | .command bytes => bytes
    | .transaction _ => []

/-! ### Safe runs -/

/-- The premises of every claim about the hardware, on one state: not halted (a fault, R236 of 60_exceptions.md), no
refused command in the run (R232, R236), the launch premises while a driver exists (U9), and a count a CNTW-bit
register still holds (R218 of 42_interrupt_wake.md, U5). -/
abbrev SafeState (s : State) : Prop :=
  s.life ≠ .halted ∧ s.mark = false ∧ (s.life = .ready → Launch s) ∧ s.irqcnt < 2 ^ s.cfg.cntw

/-- k steps, every state of which is safe and none of which stops. -/
def safeRun : Nat → State → Prop
  | 0, s => SafeState s
  | k + 1, s => SafeState s ∧ ∃ t, step s = .next t ∧ safeRun k t

/-- k steps of the machine. -/
def stepTimes : Nat → State → Out
  | 0, s => .next s
  | k + 1, s => andThen (step s) (stepTimes k)

/-- k micro-steps of the foreground command in progress. -/
def microTimes : Nat → State → Out
  | 0, s => .next s
  | k + 1, s => andThen (micro s) (microTimes k)

/-- k commands of the same kind, one exec after another. -/
def execTimes (i : Instr) : Nat → State → Out
  | 0, s => .next s
  | k + 1, s => andThen (exec i s) (execTimes i k)

end Sys2Proof.Machine
end

