-- ==== Sys2Proof/Certificates/Slice0/Obligations.lean ====
section
/-! DEFINITION. The statements for the provers. Each docstring names the rule of spec/ it formalises; the premises are
those of Safety.lean (DriverFree, OperationAlive, Launch, Between, Alone, BlockInv) and Machine/Sequencer.lean (quiet). -/

open Sys2Proof Sys2Proof.Machine

/-! ### Encoding -/

/-- Words written out from the formats R113 to R117 and the register map R44: what each decodes to at the default
widths. -/
def Obligations.SampleWordsDecode : Prop :=
  decode Config.default [0x00, 0x00, 0x00, 0x00, 0x09, 0x00, 0x00, 0x00, 0x00] =
      .instr (.construct 0x09000000) [] ∧
  decode Config.default [0x01, 0x02, 0x48] = .instr .init [0x02, 0x48] ∧
  decode Config.default [0x02, 0x48] = .instr (.putc 0x48) [] ∧
  decode Config.default [0x07, 0x02, 0x00, 0x00, 0x00, 0x41, 0x42] = .instr (.beginWrite [0x41, 0x42]) [] ∧
  decode Config.default [0x08, 0x07, 0x00, 0x00, 0x00] = .instr (.drive 7) [] ∧
  decode Config.default [0x06] = .instr .irq [] ∧
  decode Config.default [0x0A, 0x01] = .illegal 0x0A [0x01] ∧
  decode Config.default [0x07, 0x02, 0x00, 0x00] = .incomplete ∧
  decodeTxn { write := true, off := 0x044, data := 0x7FF } = .ok (.icr (.write 0x7FF)) ∧
  decodeTxn { write := false, off := 0x018, data := 0 } = .ok .fr

/-- Decoding an encoded well-formed instruction gives it back, whatever follows a command in the stream (R111 to R118,
R124). -/
def Obligations.DecodeInvertsEncode : Prop :=
  ∀ c : Config, c.Wf → ∀ (i : Instr) (rest : List Byte), i.wf c = true →
    match encode c i with
    | .command bytes => decode c (bytes ++ rest) = .instr i rest
    | .transaction t => decodeTxn t = .ok i

/-- A stream decodes to a command in one way: the command is well-formed and the bytes consumed are its encoding. -/
def Obligations.DecodedCommandIsItsEncoding : Prop :=
  ∀ c : Config, c.Wf → ∀ (i : Instr) (bs rest : List Byte), decode c bs = .instr i rest →
    i.wf c = true ∧ isCommand i = true ∧ ∃ bytes, encode c i = .command bytes ∧ bs = bytes ++ rest

/-- Every byte string is the bytes of its items followed by a tail that is an incomplete command (R129). -/
def Obligations.StreamIsItemsAndTail : Prop :=
  ∀ c : Config, c.Wf → ∀ bs : List Byte,
    bs = (decodeStream c bs).1.flatMap (itemBytes c) ++ (decodeStream c bs).2 ∧
    decode c (decodeStream c bs).2 = .incomplete

/-- A transaction is an instruction exactly when its offset is one of the eleven and it is no write of a read-only
register (R44, R57 of 10_state.md, R124 of 30_encoding.md); the instruction is the row of that offset. That other
transactions are errors is the model's choice, log entry 9. -/
def Obligations.RegisterMapIsTheElevenRows : Prop :=
  ∀ t : Txn,
    (∀ i, decodeTxn t = .ok i →
      ∃ r, rowReg i = some r ∧ t.off = BitVec.ofNat 12 (regOffset r) ∧
        (t.write = true → r ≠ .fr ∧ r ≠ .ris ∧ r ≠ .mis)) ∧
    (∀ r, t.off = BitVec.ofNat 12 (regOffset r) →
      (t.write = true → r ≠ .fr ∧ r ≠ .ris ∧ r ≠ .mis) → ∃ i, decodeTxn t = .ok i ∧ rowReg i = some r) ∧
    (∀ off, decodeTxn t = .error (.noRegister off) →
      off = t.off ∧ ∀ r, t.off ≠ BitVec.ofNat 12 (regOffset r)) ∧
    (∀ r, decodeTxn t = .error (.readOnly r) →
      t.write = true ∧ t.off = BitVec.ofNat 12 (regOffset r) ∧ (r = .fr ∨ r = .ris ∨ r = .mis))

/-! ### The step -/

/-- When the bytes at the command port decode to a command, the step of an idle block is exec of it with the bytes
consumed (R110); a transaction another master presents is executed by the next step, whatever the block is doing (R81
of 20_memory.md). The same after a scheduled move of the block. Another master's transaction as the register rows'
instruction, and its place before the block's own work, are the model's choice, log entry 9; the schedule is log entry
13. -/
def Obligations.StepExecutesTheDecodedInstruction : Prop :=
  (∀ (s : State) (i : Instr) (rest : List Byte), Between s → s.bus = none → s.irqReq = 0 →
    decode s.cfg s.cmdIn = .instr i rest →
    (s.sched = [] → step s = exec i { s with cmdIn := rest }) ∧
    (∀ moves, s.sched = .block :: moves → step s = exec i { s with sched := moves, cmdIn := rest })) ∧
  (∀ (s : State) (x : Txn) (i : Instr), s.bus = some x → decodeTxn x = .ok i →
    (s.sched = [] → step s = exec i { s with bus := none }) ∧
    (∀ moves, s.sched = .block :: moves → step s = exec i { s with sched := moves, bus := none }))

/-- An opcode byte above 0x09 is consumed alone and refused BAD_OPCODE, nothing else changing but the run's mark; an
incomplete command leaves the block waiting (R118, R122). The refusal as a next state with a mark is log entry 7,
waiting as a step that changes nothing log entry 29. -/
def Obligations.IllegalOpcodeIsRefusedAndIncompleteWaits : Prop :=
  ∀ s : State, Between s → Alone s →
    (∀ (op : Byte) (rest : List Byte), s.cmdIn = op :: rest → 9 < op.toNat →
      step s = .next { s with
        cmdIn := rest
        rspOut := s.rspOut ++ [.refused .badOpcode]
        trace := s.trace ++ [.badOpcode op, .rsp .command (.refused .badOpcode)]
        mark := true }) ∧
    (decode s.cfg s.cmdIn = .incomplete → step s = .next s) ∧
    (∀ rest : List Byte, s.cmdIn = 0x08#8 :: rest → rest.length < s.cfg.hw / 8 → step s = .next s)

/-- What a step of the block works on, with nothing scheduled or after a scheduled block move: an entry in progress
before everything of the block; then a waiting interrupt request, between commands and, when IRQ_PREEMPTS, inside one;
then the command in progress (R242, R243, R246). Requests as a count are log entry 27; that a request which may be
served is served before the next micro-step of the foreground is the model's choice, log entry 33. -/
def Obligations.InterruptRequestOrder : Prop :=
  ∀ s u : State, u.bus = none → (s.sched = [] ∧ u = s ∨ ∃ moves, s.sched = .block :: moves ∧ u = { s with sched := moves }) →
    (u.ipc ≠ .idle → step s = advanceEntry u) ∧
    (u.ipc = .idle → u.upc = .idle → 0 < u.irqReq → step s = startIrq .request { u with irqReq := u.irqReq - 1 }) ∧
    (u.ipc = .idle → u.upc ≠ .idle → 0 < u.irqReq → u.cfg.irqPreempts = true →
      step s = startIrq .request { u with irqReq := u.irqReq - 1 }) ∧
    (u.ipc = .idle → u.upc ≠ .idle → u.irqReq = 0 ∨ u.cfg.irqPreempts = false → step s = advance u)

/-- The moves of the agents outside the block: what each changes (R86, R92 of 20_memory.md, R110, R125 of
30_encoding.md, R292 of 70_reset_and_hazards.md). The model's choices: the schedule is log entry 13, the peripheral's
moves log entry 23, requests as a count log entry 27, and another master's transaction, a second one replacing the
first, log entry 9. -/
def Obligations.ScheduledMovesOfTheEnvironment : Prop :=
  ∀ (s : State) (rest : List Move),
    (∀ bytes, s.sched = .host bytes :: rest →
      step s = .next { s with sched := rest, cmdIn := s.cmdIn ++ bytes }) ∧
    (s.sched = .irq :: rest → step s = .next { s with sched := rest, irqReq := s.irqReq + 1 }) ∧
    (∀ v, s.sched = .raise v :: rest →
      step s = .next { s with sched := rest, uart := { s.uart with ris := s.uart.ris ||| v } }) ∧
    (∀ v, s.sched = .lower v :: rest →
      step s = .next { s with sched := rest, uart := { s.uart with ris := s.uart.ris &&& ~~~ v } }) ∧
    (∀ v, s.sched = .mask v :: rest → s.uart.mode = .oracle →
      step s = .next { s with sched := rest, uart := { s.uart with imsc := v } }) ∧
    (∀ v, s.sched = .mask v :: rest → s.uart.mode = .mock → step s = .next { s with sched := rest }) ∧
    (∀ fs, s.sched = .flags fs :: rest →
      step s = .next { s with sched := rest, uart := { s.uart with frq := fs } }) ∧
    (∀ w, s.sched = .receive w :: rest →
      step s = .next { s with sched := rest, uart := { s.uart with rxq := s.uart.rxq ++ [w] } }) ∧
    (∀ ws, s.sched = .mockRxq ws :: rest → s.uart.mode = .mock →
      step s = .next { s with sched := rest, uart := { s.uart with rxq := ws } }) ∧
    (∀ v, s.sched = .mockRis v :: rest → s.uart.mode = .mock →
      step s = .next { s with sched := rest, uart := { s.uart with ris := v } }) ∧
    (∀ ws, s.sched = .mockRxq ws :: rest → s.uart.mode = .oracle → step s = .next { s with sched := rest }) ∧
    (∀ v, s.sched = .mockRis v :: rest → s.uart.mode = .oracle → step s = .next { s with sched := rest }) ∧
    (∀ x, s.sched = .other x :: rest → step s = .next { s with sched := rest, bus := some x })

/-- An admitted command is accepted at its first label with its operands latched, whatever the rest of the state; in a
quiet state the acceptance and the micro-steps that follow are one step, in any other state the acceptance is a step of
its own and so is every micro-step (R20 of 00_scope.md, R38 and R39 of 10_state.md, R280 of 70_reset_and_hazards.md; the
grouping is the model's choice, log entry 25). The woken set at a DRIVE is log entry 22. -/
def Obligations.CommandsAdvanceByMicroSteps : Prop :=
  (∀ s t : State, advance s = .next t →
    (quiet s = false → micro s = .next t) ∧ ∃ k, 0 < k ∧ microTimes k s = .next t) ∧
  (∀ s : State, entryQuiet s = false → advanceEntry s = entryMicro s) ∧
  (∀ s : State, (quiet s = true → accept s = advance s) ∧ (quiet s = false → accept s = .next s)) ∧
  (∀ (base : Nat) (s : State), s.life = .reset →
    exec (.construct base) s = accept { s with
      upc := .c1, scr := { s.scr with base := base }, trace := s.trace ++ [.cmd (.construct base)] }) ∧
  (∀ s : State, DriverFree s →
    exec .init s = accept { s with upc := .i1, trace := s.trace ++ [.cmd .init] } ∧
    (∀ b, exec (.putc b) s = accept { s with
      upc := .p1, scr := { s.scr with b := b }, trace := s.trace ++ [.cmd (.putc b)] }) ∧
    exec .getc s = accept { s with upc := .g1, trace := s.trace ++ [.cmd .getc] } ∧
    exec .rxpend s = accept { s with upc := .q1, trace := s.trace ++ [.cmd .rxpend] } ∧
    exec .ack s = accept { s with upc := .a1, trace := s.trace ++ [.cmd .ack] } ∧
    (∀ bytes, exec (.beginWrite bytes) s = accept { s with
      upc := .b1, scr := { s.scr with bytes := bytes }, trace := s.trace ++ [.cmd (.beginWrite bytes)] })) ∧
  (∀ s : State, OperationAlive s →
    (∀ h, exec (.drive h) s = accept { s with
      upc := .d1
      scr := { s.scr with h := h }
      woken := s.woken.filter (fun x => decide (x ≠ h))
      trace := s.trace ++ [.cmd (.drive h)] }) ∧
    exec .drop s = accept { s with upc := .x1, trace := s.trace ++ [.cmd .drop] }) ∧
  (∀ s : State, s.life = .ready →
    exec .irq s = advanceEntry { s with ipc := .h1, irqPort := .command, trace := s.trace ++ [.cmd .irq] })

/-! ### Reset -/

/-- The block right after reset, and the reset input: the registers of R62 of 10_state.md at their values from any state,
HALTED included, no access, the command in progress abandoned without a response, the peripheral untouched (R270, R271
of 70_reset_and_hazards.md). That the ports, the trace and the schedule outside stay is the model's choice (log entry
21). -/
def Obligations.ResetLeavesTheBlock : Prop :=
  (State.reset.life = .reset ∧ State.reset.opst = .none ∧ State.reset.upc = .idle ∧ State.reset.ipc = .idle ∧
    State.reset.wake = none ∧ State.reset.irqcnt = 0 ∧ blockAccesses State.reset.trace = []) ∧
  (∀ (s : State) (rest : List Move), s.sched = .reset :: rest →
    ∃ t, step s = .next t ∧ t.life = .reset ∧ t.opst = .none ∧ t.upc = .idle ∧ t.ipc = .idle ∧ t.wake = none ∧
      t.irqcnt = 0 ∧ t.cfg = s.cfg ∧ t.uart = s.uart ∧ t.trace = s.trace ∧ t.rspOut = s.rspOut ∧
      t.irqDone = s.irqDone ∧ t.wakeOut = s.wakeOut ∧ t.cmdIn = s.cmdIn ∧ t.irqReq = s.irqReq ∧ t.sched = rest)

/-! ### Admission, the exception, the halted state -/

/-- The admission check: the opcode first, then HALTED, then by command; a refused command changes nothing but the
trace, the response port and the run's mark (R232, R233 of 60_exceptions.md). An admitted command is not refused, and
whether INIT has run is not looked at. A request on irq_req before a driver exists is refused too (R272 of
70_reset_and_hazards.md; its place on irq_done is log entry 26). The reason of a CONSTRUCT with an operation alive is log
entry 35. The refusal as a next state with a mark is log entry 7. -/
def Obligations.AdmissionCheck : Prop :=
  (∀ (c : Config) (op : Byte) (rest : List Byte), 9 < op.toNat → decode c (op :: rest) = .illegal op rest) ∧
  (∀ (s : State) (op : Byte), refuseOpcode op s =
      { s with
        rspOut := s.rspOut ++ [.refused .badOpcode]
        trace := s.trace ++ [.badOpcode op, .rsp .command (.refused .badOpcode)]
        mark := true }) ∧
  (∀ (i : Instr) (s : State) (r : Reason), isCommand i = true →
    ((s.life = .halted ∧ r = .halted) ∨
     (s.life = .reset ∧ (∀ base, i ≠ .construct base) ∧ r = .notConstructed) ∨
     (s.life = .ready ∧ (∃ base, i = .construct base) ∧ r = .alreadyConstructed) ∨
     (s.life = .ready ∧ s.opst ≠ .none ∧
       (i = .init ∨ (∃ b, i = .putc b) ∨ i = .getc ∨ i = .rxpend ∨ i = .ack ∨ (∃ bytes, i = .beginWrite bytes)) ∧
       r = .opAlive) ∨
     (s.life = .ready ∧ s.opst = .none ∧ ((∃ h, i = .drive h) ∨ i = .drop) ∧ r = .noOp)) →
    exec i s = .next { s with
      rspOut := s.rspOut ++ [.refused r]
      trace := s.trace ++ [.cmd i, .rsp .command (.refused r)]
      mark := true }) ∧
  (∀ s : State, s.life = .reset →
    startIrq .request s = .next { s with
      irqDone := s.irqDone ++ [.refused .notConstructed]
      trace := s.trace ++ [.cmd .irq, .rsp .request (.refused .notConstructed)]
      mark := true }) ∧
  (∀ (i : Instr) (s t : State), isCommand i = true →
    ((s.life = .reset ∧ (∃ base, i = .construct base)) ∨
     (s.life = .ready ∧ s.opst = .none ∧
       (i = .init ∨ (∃ b, i = .putc b) ∨ i = .getc ∨ i = .rxpend ∨ i = .ack ∨ (∃ bytes, i = .beginWrite bytes))) ∨
     (s.life = .ready ∧ i = .irq) ∨
     (s.life = .ready ∧ s.opst ≠ .none ∧ ((∃ h, i = .drive h) ∨ i = .drop))) →
    exec i s = .next t → t.mark = s.mark ∧ ∀ r, t.rspOut ≠ s.rspOut ++ [.refused r]) ∧
  (∀ (i : Instr) (s : State) (b : Bool), isCommand i = true →
    ((∃ r, exec i s = .next (refuse .command r (logCmd i s))) ↔
     (∃ r, exec i { s with ghost := { s.ghost with inited := b } } =
        .next (refuse .command r (logCmd i { s with ghost := { s.ghost with inited := b } })))))

/-- CONSTRUCT with base 0 in RESET raises NullBase: LIFE becomes HALTED, the response is FATAL 1, nothing is recorded
and no access is made (R150, R151 of 40_driver_ops.md, R230 of 60_exceptions.md). The exception as a next state is log
entry 8. -/
def Obligations.NullBaseHaltsTheBlock : Prop :=
  ∀ s : State, s.life = .reset → quiet s = true →
    exec (.construct 0) s = .next { s with
      life := .halted
      upc := .idle
      scr := { s.scr with base := 0 }
      rspOut := s.rspOut ++ [.fatal 1]
      trace := s.trace ++ [.cmd (.construct 0), .rsp .command (.fatal 1)] }

/-- In HALTED every command, IRQ on its own port included, is refused with reason HALTED and nothing else changes, and
no step but the reset input leaves HALTED or makes an access of the block (R231 of 60_exceptions.md). The refusal as a
next state with a mark is log entry 7, its place on irq_done log entry 26. -/
def Obligations.HaltedRefusesEverythingUntilReset : Prop :=
  (∀ (i : Instr) (s : State), s.life = .halted → isCommand i = true →
    exec i s = .next { s with
      rspOut := s.rspOut ++ [.refused .halted]
      trace := s.trace ++ [.cmd i, .rsp .command (.refused .halted)]
      mark := true }) ∧
  (∀ s : State, s.life = .halted →
    startIrq .request s = .next { s with
      irqDone := s.irqDone ++ [.refused .halted]
      trace := s.trace ++ [.cmd .irq, .rsp .request (.refused .halted)]
      mark := true }) ∧
  (∀ s t : State, BlockInv s → s.life = .halted → step s = .next t → (∀ rest, s.sched ≠ .reset :: rest) →
    t.life = .halted ∧ blockAccesses t.trace = blockAccesses s.trace)

/-! ### The driver operations -/

/-- CONSTRUCT with a base that is not null binds it, with no other check and no access (R150, R152 of
40_driver_ops.md). -/
def Obligations.ConstructBindsTheDriver : Prop :=
  ∀ (base : Nat) (s : State), s.life = .reset → quiet s = true → base ≠ 0 →
    exec (.construct base) s = .next { s with
      life := .ready
      base := base
      wake := none
      irqcnt := 0
      opst := .none
      upc := .idle
      scr := { s.scr with base := base }
      rspOut := s.rspOut ++ [.ok]
      trace := s.trace ++ [.cmd (.construct base), .rsp .command .ok]
      ghost := { s.ghost with opWrites := [], irqsDone := 0 } }

/-- INIT makes its seven writes in order, reads nothing, touches no register of the block but the ghost INITED, and
leaves the pending sources and the queues of the peripheral alone (R153, R154 of 40_driver_ops.md). -/
def Obligations.InitMakesItsSevenWrites : Prop :=
  ∀ s : State, DriverFree s → quiet s = true → Launch s →
    exec .init s = .next { s with
      upc := .idle
      uart := { s.uart with
        ibrd := s.cfg.ibrdVal
        fbrd := s.cfg.fbrdVal
        lcrh := s.cfg.lcrhVal
        ifls := s.cfg.iflsVal
        imsc := s.cfg.imscAll
        cr := s.cfg.crOnVal }
      rspOut := s.rspOut ++ [.ok]
      trace := s.trace ++
        [.cmd .init,
         .write .cr (s.base + 0x30) s.cfg.crOffVal,
         .write .ibrd (s.base + 0x24) s.cfg.ibrdVal,
         .write .fbrd (s.base + 0x28) s.cfg.fbrdVal,
         .write .lcrh (s.base + 0x2c) s.cfg.lcrhVal,
         .write .ifls (s.base + 0x34) s.cfg.iflsVal,
         .write .imsc (s.base + 0x38) s.cfg.imscAll,
         .write .cr (s.base + 0x30) s.cfg.crOnVal,
         .rsp .command .ok]
      ghost := { s.ghost with inited := true } }

/-- What INIT's constants mean under the constraints of R14 of 00_scope.md: word length 8, the UART enabled with
transmit and receive, every implemented source unmasked, and the first write had disabled the UART. -/
def Obligations.InitConfiguresTheUart : Prop :=
  ∀ s t : State, s.cfg.Wf → DriverFree s → quiet s = true → Launch s → exec .init s = .next t →
    (lineControl s.cfg t.uart.lcrh).wordLength = 8 ∧
    (control s.cfg t.uart.cr).uartEnable = true ∧ (control s.cfg t.uart.cr).txEnable = true ∧
    (control s.cfg t.uart.cr).rxEnable = true ∧
    (control s.cfg s.cfg.crOffVal).uartEnable = false ∧
    (∀ j, j < s.cfg.nIrq → t.uart.imsc.getLsbD j = true)

/-- PUTC, when the first poll finds the transmitter not busy: one FR read, one DR write of the zero-extended byte, the
response OK, whatever the full flag says (R155, R156 of 40_driver_ops.md). -/
def Obligations.PutcWritesTheByte : Prop :=
  ∀ (b : Byte) (s : State), DriverFree s → quiet s = true → Launch s → txBusy (answer s .fr) = false →
    exec (.putc b) s = .next { s with
      upc := .idle
      scr := { s.scr with b := b, f := answer s .fr }
      uart := { uartAfterRead s.uart .fr with txlog := s.uart.txlog ++ [b.setWidth 32] }
      draws := s.draws + 1
      rspOut := s.rspOut ++ [.ok]
      trace := s.trace ++
        [.cmd (.putc b), .read .fr (s.base + 0x18) (answer s .fr), .write .dr (s.base + 0x00) (b.setWidth 32),
         .rsp .command .ok] }

/-- GETC, when the first poll finds the receive queue not empty: one FR read, one DR read, the low 8 bits of the word,
whatever its other bits (R157, R158 of 40_driver_ops.md). -/
def Obligations.GetcReturnsTheLowByte : Prop :=
  ∀ (s : State) (d : Word), DriverFree s → quiet s = true → Launch s → rxEmpty (answer s .fr) = false →
    d = uartAnswer (uartAfterRead s.uart .fr) (s.draws + 1) .dr →
    exec .getc s = .next { s with
      upc := .idle
      scr := { s.scr with f := answer s .fr, d := d }
      uart := { uartAfterRead s.uart .fr with rxq := s.uart.rxq.tail }
      draws := s.draws + 2
      rspOut := s.rspOut ++ [.byte (d.setWidth 8)]
      trace := s.trace ++
        [.cmd .getc, .read .fr (s.base + 0x18) (answer s .fr), .read .dr (s.base + 0x00) d,
         .rsp .command (.byte (d.setWidth 8))] }

/-- RXPEND reads MIS once and answers its receive bit (R159 of 40_driver_ops.md). -/
def Obligations.RxpendAnswersTheReceiveBit : Prop :=
  ∀ s : State, DriverFree s → quiet s = true → Launch s →
    exec .rxpend s = .next { s with
      upc := .idle
      scr := { s.scr with m := answer s .mis }
      draws := s.draws + 1
      rspOut := s.rspOut ++ [.bool ((answer s .mis).getLsbD s.cfg.rxBit)]
      trace := s.trace ++
        [.cmd .rxpend, .read .mis (s.base + 0x40) (answer s .mis),
         .rsp .command (.bool ((answer s .mis).getLsbD s.cfg.rxBit))] }

/-- ACK writes CLEAR_ALL to ICR once: every source with its bit there is no longer pending, the others are untouched,
and no register of the block changes (R160 of 40_driver_ops.md, R87 of 20_memory.md). -/
def Obligations.AckClearsThePendingSources : Prop :=
  ∀ s : State, DriverFree s → quiet s = true → Launch s →
    exec .ack s = .next { s with
      upc := .idle
      uart := { s.uart with ris := s.uart.ris &&& ~~~ s.cfg.clearAll, icr := s.cfg.clearAll }
      rspOut := s.rspOut ++ [.ok]
      trace := s.trace ++ [.cmd .ack, .write .icr (s.base + 0x44) s.cfg.clearAll, .rsp .command .ok] }

/-- The micro-steps of CONSTRUCT, INIT, PUTC, GETC, RXPEND and ACK one by one, in every state, those that access the
peripheral under the launch premises: C1 tests the base, C2 raises NullBase, C3 binds; INIT's writes, each with its
register, constant and successor; a spin polls again while its flag reads set, PUTC on bit 3, GETC on bit 4; Q1 reads
MIS, A1 writes ICR (R150, R151, R153, R155, R157, R159, R160 of 40_driver_ops.md, R230, R235 of 60_exceptions.md). -/
def Obligations.DriverMicroSteps : Prop :=
  (∀ s : State,
    (s.upc = .c1 → micro s = .next { s with upc := if s.scr.base = 0 then .c2 else .c3 }) ∧
    (s.upc = .c2 →
      micro s = .next { s with
        life := .halted
        upc := .idle
        rspOut := s.rspOut ++ [.fatal 1]
        trace := s.trace ++ [.rsp .command (.fatal 1)] }) ∧
    (s.upc = .c3 →
      micro s = .next { s with
        life := .ready
        base := s.scr.base
        wake := none
        irqcnt := 0
        opst := .none
        upc := .idle
        rspOut := s.rspOut ++ [.ok]
        trace := s.trace ++ [.rsp .command .ok]
        ghost := { s.ghost with opWrites := [], irqsDone := 0 } })) ∧
  ∀ s : State, Launch s →
    (∀ (p q : Phase) (r : Reg) (v : Word),
      (p, r, v, q) ∈ [(Phase.i1, Reg.cr, s.cfg.crOffVal, Phase.i2), (.i2, .ibrd, s.cfg.ibrdVal, .i3),
        (.i3, .fbrd, s.cfg.fbrdVal, .i4), (.i4, .lcrh, s.cfg.lcrhVal, .i5), (.i5, .ifls, s.cfg.iflsVal, .i6),
        (.i6, .imsc, s.cfg.imscAll, .i7), (.i7, .cr, s.cfg.crOnVal, .i8)] →
      s.upc = p →
      micro s = .next { s with
        upc := q
        uart := uartAfterWrite s.uart v r
        trace := s.trace ++ [.write r (s.base + regOffset r) v] }) ∧
    (∀ (p q : Phase) (n : Nat), (p, q, n) ∈ [(Phase.p1, Phase.p2, 3), (.g1, .g2, 4)] → s.upc = p →
      micro s = .next { s with
        upc := if (answer s .fr).getLsbD n then p else q
        scr := { s.scr with f := answer s .fr }
        uart := uartAfterRead s.uart .fr
        draws := s.draws + 1
        trace := s.trace ++ [.read .fr (s.base + 0x18) (answer s .fr)] }) ∧
    (s.upc = .p2 →
      micro s = .next { s with
        upc := .idle
        uart := { s.uart with txlog := s.uart.txlog ++ [s.scr.b.setWidth 32] }
        rspOut := s.rspOut ++ [.ok]
        trace := s.trace ++ [.write .dr (s.base + 0x00) (s.scr.b.setWidth 32), .rsp .command .ok] }) ∧
    (s.upc = .g2 →
      micro s = .next { s with
        upc := .idle
        scr := { s.scr with d := answer s .dr }
        uart := { s.uart with rxq := s.uart.rxq.tail }
        draws := s.draws + 1
        rspOut := s.rspOut ++ [.byte ((answer s .dr).setWidth 8)]
        trace := s.trace ++
          [.read .dr (s.base + 0x00) (answer s .dr), .rsp .command (.byte ((answer s .dr).setWidth 8))] }) ∧
    (s.upc = .i8 →
      micro s = .next { s with
        upc := .idle
        rspOut := s.rspOut ++ [.ok]
        trace := s.trace ++ [.rsp .command .ok]
        ghost := { s.ghost with inited := true } }) ∧
    (s.upc = .q1 →
      micro s = .next { s with
        upc := .idle
        scr := { s.scr with m := answer s .mis }
        draws := s.draws + 1
        rspOut := s.rspOut ++ [.bool ((answer s .mis).getLsbD s.cfg.rxBit)]
        trace := s.trace ++
          [.read .mis (s.base + 0x40) (answer s .mis),
           .rsp .command (.bool ((answer s .mis).getLsbD s.cfg.rxBit))] }) ∧
    (s.upc = .a1 →
      micro s = .next { s with
        upc := .idle
        uart := { s.uart with ris := s.uart.ris &&& ~~~ s.cfg.clearAll, icr := s.cfg.clearAll }
        rspOut := s.rspOut ++ [.ok]
        trace := s.trace ++ [.write .icr (s.base + 0x44) s.cfg.clearAll, .rsp .command .ok] })

/-- A hang: with the mock answering the flag set for ever, a PUTC, GETC or DRIVE that spins polls for ever; it never
responds, and with IRQ_PREEMPTS false no waiting interrupt request and no later command is served (R235, R254 of
60_exceptions.md, R287 of 70_reset_and_hazards.md). -/
def Obligations.HungSpinHoldsEverythingBack : Prop :=
  ∀ (k : Nat) (s : State) (v : Word), Launch s → s.sched = [] → s.bus = none → s.ipc = .idle →
    s.cfg.irqPreempts = false → s.uart.mode = .mock → s.uart.frq = [v] →
    ((s.upc = .p1 ∨ s.upc = .d3) ∧ txBusy v = true ∨ s.upc = .g1 ∧ rxEmpty v = true) →
    stepTimes k s = .next { s with
      scr := { s.scr with f := if k = 0 then s.scr.f else v }
      draws := s.draws + k
      trace := s.trace ++ List.replicate k (.read .fr (s.base + 0x18) v) }

/-! ### The peripheral -/

/-- After a completed ACK, and after a completed IRQ, RIS and MIS read clear in every implemented source bit, and MIS
reads 0 where no mask bit is outside CLEAR_ALL, no step of the peripheral in between (R88, R89 of 20_memory.md, R160 of
40_driver_ops.md). -/
def Obligations.StatusReadsClearAfterAcknowledge : Prop :=
  ∀ s t : State, s.cfg.Wf → s.upc = .idle → s.ipc = .idle →
    (exec .ack s = .next t ∧ DriverFree s ∧ t.upc = .idle ∨ exec .irq s = .next t ∧ s.life = .ready ∧ t.ipc = .idle) →
    answer t .ris &&& t.cfg.sourceBits = 0#32 ∧ answer t .mis &&& t.cfg.sourceBits = 0#32 ∧
    (t.uart.imsc &&& ~~~ t.cfg.clearAll = 0#32 → answer t .mis = 0#32)

/-- Write-1-to-clear: a write of v to ICR makes source j no longer pending when v has bit j set and leaves it
otherwise; no step of the machine makes a source pending but a move of the peripheral or of the mock's script (R56 of
10_state.md, R87 of 20_memory.md). The list of the peripheral's moves is log entry 23. -/
def Obligations.PendingSourcesClearAndRise : Prop :=
  (∀ (u : Uart) (v : Word) (j : Nat),
    (uartAfterWrite u v .icr).ris.getLsbD j = (u.ris.getLsbD j && !v.getLsbD j)) ∧
  (∀ (s : State) (v : Word) (rest : List Move), s.sched = .raise v :: rest →
    ∃ t, step s = .next t ∧ ∀ j, t.uart.ris.getLsbD j = (s.uart.ris.getLsbD j || v.getLsbD j)) ∧
  (∀ (s t : State) (j : Nat), step s = .next t → s.uart.ris.getLsbD j = false → t.uart.ris.getLsbD j = true →
    ∃ v rest, s.sched = .raise v :: rest ∨ s.sched = .mockRis v :: rest)

/-- Every register row read by another master: one event, the peripheral's side effect of that read, no register, port
or buffer of the block; reads of FR, RIS, MIS and of the configuration leave every stored register of the peripheral
alone, a read of DR takes the oldest received word (R45 to R56 of 10_state.md, R77, R90 of 20_memory.md). The row as
another master's access is the model's choice, log entry 9; the answers are log entries 5, 10, 11, 12. -/
def Obligations.RegisterRowReads : Prop :=
  ∀ (s : State) (i : Instr) (r : Reg),
    (i, r) ∈ [(Instr.dr .read, Reg.dr), (.fr, .fr), (.ibrd .read, .ibrd), (.fbrd .read, .fbrd),
      (.lcrh .read, .lcrh), (.cr .read, .cr), (.ifls .read, .ifls), (.imsc .read, .imsc), (.ris, .ris),
      (.mis, .mis), (.icr .read, .icr)] →
    exec i s = .next { s with
      uart := { s.uart with
        rxq := if r = .dr then s.uart.rxq.tail else s.uart.rxq
        frq := if r = .fr then frqAfterRead s.uart.mode s.uart.frq else s.uart.frq }
      draws := s.draws + 1
      trace := s.trace ++ [.otherRead r (answer s r)] }

/-- Every register row written by another master: DR queues the word, a configuration register or IMSC takes it, ICR
clears; nothing else of the peripheral and nothing of the block changes (R45, R47 to R53, R56 of 10_state.md, R77).
The row as another master's access is the model's choice, log entry 9. -/
def Obligations.RegisterRowWrites : Prop :=
  ∀ (s : State) (v : Word),
    exec (.dr (.write v)) s = .next { s with
      uart := { s.uart with txlog := s.uart.txlog ++ [v] }, trace := s.trace ++ [.otherWrite .dr v] } ∧
    exec (.ibrd (.write v)) s = .next { s with
      uart := { s.uart with ibrd := v }, trace := s.trace ++ [.otherWrite .ibrd v] } ∧
    exec (.fbrd (.write v)) s = .next { s with
      uart := { s.uart with fbrd := v }, trace := s.trace ++ [.otherWrite .fbrd v] } ∧
    exec (.lcrh (.write v)) s = .next { s with
      uart := { s.uart with lcrh := v }, trace := s.trace ++ [.otherWrite .lcrh v] } ∧
    exec (.cr (.write v)) s = .next { s with
      uart := { s.uart with cr := v }, trace := s.trace ++ [.otherWrite .cr v] } ∧
    exec (.ifls (.write v)) s = .next { s with
      uart := { s.uart with ifls := v }, trace := s.trace ++ [.otherWrite .ifls v] } ∧
    exec (.imsc (.write v)) s = .next { s with
      uart := { s.uart with imsc := v }, trace := s.trace ++ [.otherWrite .imsc v] } ∧
    exec (.icr (.write v)) s = .next { s with
      uart := { s.uart with ris := s.uart.ris &&& ~~~ v, icr := v }, trace := s.trace ++ [.otherWrite .icr v] }

/-- What reads answer, whoever makes them: MIS is RIS and IMSC, bit by bit, and RIS and IMSC are what the peripheral
holds (R88 of 20_memory.md, R53 to R55 of 10_state.md; log entries 11, 12); FR and DR answer the head of what the
peripheral holds for them (R86, R90; log entry 5); IMSC reads back what was last written, and on the mock so does every
configuration register and ICR (R92; on the oracle those reads are any value, log entries 10 and 11); an empty mock
queue answers 0 and the mock's last flag answer repeats (R92); the words written to DR queue in order (R90). -/
def Obligations.ReadsAnswerThePeripheral : Prop :=
  ∀ s : State,
    answer s .mis = s.uart.ris &&& s.uart.imsc ∧ answer s .ris = s.uart.ris ∧ answer s .imsc = s.uart.imsc ∧
    (∀ f rest, s.uart.frq = f :: rest → answer s .fr = f) ∧
    (∀ d rest, s.uart.rxq = d :: rest → answer s .dr = d) ∧
    (s.uart.mode = .mock → s.uart.rxq = [] → answer s .dr = 0#32) ∧
    (∀ (f : Word) (t : State), s.uart.mode = .mock → s.uart.frq = [f] → exec .fr s = .next t → answer t .fr = f) ∧
    (∀ (v : Word) (i : Instr) (r : Reg) (t : State),
      (i, r) ∈ [(Instr.ibrd (.write v), Reg.ibrd), (.fbrd (.write v), .fbrd), (.lcrh (.write v), .lcrh),
        (.cr (.write v), .cr), (.ifls (.write v), .ifls), (.imsc (.write v), .imsc), (.icr (.write v), .icr)] →
      s.uart.mode = .mock ∨ r = .imsc → exec i s = .next t → answer t r = v) ∧
    (∀ (v w : Word) (t u : State), exec (.dr (.write v)) s = .next t → exec (.dr (.write w)) t = .next u →
      u.uart.txlog = s.uart.txlog ++ [v, w])

/-! ### The async write operation -/

/-- BEGIN captures the buffer and its length, sets the cursor to 0 and OPST to ACTIVE, or to COMPLETE for the empty
buffer; no access, WAKE and IRQCNT untouched (R180 of 41_async_write.md). -/
def Obligations.BeginCapturesTheBuffer : Prop :=
  ∀ (bytes : List Byte) (s : State), DriverFree s → quiet s = true →
    exec (.beginWrite bytes) s = .next { s with
      buf := bytes
      len := bytes.length
      cur := 0
      opst := if bytes = [] then .complete else .active
      upc := .idle
      scr := { s.scr with bytes := bytes }
      rspOut := s.rspOut ++ [.ok]
      trace := s.trace ++ [.cmd (.beginWrite bytes), .rsp .command .ok]
      ghost := { s.ghost with opWrites := [] } }

/-- The micro-steps of BEGIN, DRIVE and DROP one by one: B1 the capture, X1 the end with the cell kept or emptied (BUF, LEN
and CUR after it are log entry 24); D1 the completion check; DS the registration whatever the cell held, with no
access and the cursor unchanged; D2 the backpressure check on bit 5 only, D3 the busy spin on bit 3 only, D4 the write
of the byte at the cursor, D5 the cursor's advance by one after it (R180, R183, R185 to R190 of 41_async_write.md). -/
def Obligations.DriveMicroSteps : Prop :=
  (∀ s : State, s.upc = .b1 →
    micro s = .next { s with
      buf := s.scr.bytes
      len := s.scr.bytes.length
      cur := 0
      opst := if s.scr.bytes = [] then .complete else .active
      upc := .idle
      rspOut := s.rspOut ++ [.ok]
      trace := s.trace ++ [.rsp .command .ok]
      ghost := { s.ghost with opWrites := [] } }) ∧
  (∀ s : State, s.upc = .x1 → ∃ w, (w = s.wake ∨ w = none) ∧
    micro s = .next { s with
      opst := .none
      wake := w
      upc := .idle
      draws := s.draws + 1
      rspOut := s.rspOut ++ [.ok]
      trace := s.trace ++ [.rsp .command .ok]
      ghost := { s.ghost with opWrites := [] } }) ∧
  (∀ s : State, s.upc = .d1 →
    (s.len ≤ s.cur →
      micro s = .next { s with
        opst := .complete
        upc := .idle
        rspOut := s.rspOut ++ [.complete s.cur]
        trace := s.trace ++ [.rsp .command (.complete s.cur)] }) ∧
    (s.cur < s.len → micro s = .next { s with upc := .d2 })) ∧
  (∀ s : State, s.upc = .ds →
    micro s = .next { s with
      wake := some s.scr.h
      opst := .suspended
      upc := .idle
      rspOut := s.rspOut ++ [.suspended]
      trace := s.trace ++ [.rsp .command .suspended] }) ∧
  (∀ s : State, s.upc = .d5 → micro s = .next { s with cur := s.cur + 1, upc := .d1 }) ∧
  (∀ s : State, Launch s →
    (s.upc = .d2 →
      micro s = .next { s with
        upc := if (answer s .fr).getLsbD 5 then .ds else .d3
        opst := if (answer s .fr).getLsbD 5 then s.opst else .active
        scr := { s.scr with f := answer s .fr }
        uart := uartAfterRead s.uart .fr
        draws := s.draws + 1
        trace := s.trace ++ [.read .fr (s.base + 0x18) (answer s .fr)] }) ∧
    (s.upc = .d3 →
      micro s = .next { s with
        upc := if (answer s .fr).getLsbD 3 then .d3 else .d4
        scr := { s.scr with f := answer s .fr }
        uart := uartAfterRead s.uart .fr
        draws := s.draws + 1
        trace := s.trace ++ [.read .fr (s.base + 0x18) (answer s .fr)] }) ∧
    (∀ b, s.upc = .d4 → s.buf[s.cur]? = some b →
      micro s = .next { s with
        upc := .d5
        uart := { s.uart with txlog := s.uart.txlog ++ [b.setWidth 32] }
        trace := s.trace ++ [.write .dr (s.base + 0x00) (b.setWidth 32)]
        ghost := { s.ghost with opWrites := s.ghost.opWrites ++ [b.setWidth 32] } }))

/-- DRIVE of a COMPLETE operation, any number of times: no access, COMPLETE LEN each time, the handle operand ignored,
the cell, the cursor, the buffer and the counter untouched (R191 of 41_async_write.md). -/
def Obligations.DriveOfACompleteOperationIsIdempotent : Prop :=
  ∀ (k h : Nat) (s : State), s.life = .ready → s.opst = .complete → s.cur = s.len → s.upc = .idle → quiet s = true →
    ∃ t, execTimes (.drive h) k s = .next t ∧
      t.rspOut = s.rspOut ++ List.replicate k (.complete s.len) ∧
      t.opst = .complete ∧ t.cur = s.cur ∧ t.len = s.len ∧ t.buf = s.buf ∧ t.wake = s.wake ∧
      t.irqcnt = s.irqcnt ∧ t.life = .ready ∧ t.base = s.base ∧ t.uart = s.uart ∧ t.upc = .idle ∧
      t.wakeOut = s.wakeOut ∧ t.mark = s.mark ∧ blockAccesses t.trace = blockAccesses s.trace

/-- DRIVE whose first flag read is full: one FR read, no byte, the handle registered, SUSPENDED (R182, R185, R187 of
41_async_write.md). The woken set is log entry 22. -/
def Obligations.DriveSuspendsOnAFullFifo : Prop :=
  ∀ (h : Nat) (s : State), OperationAlive s → quiet s = true → Launch s → s.cur < s.len →
    txFull (answer s .fr) = true →
    exec (.drive h) s = .next { s with
      wake := some h
      opst := .suspended
      upc := .idle
      scr := { s.scr with h := h, f := answer s .fr }
      uart := uartAfterRead s.uart .fr
      draws := s.draws + 1
      woken := s.woken.filter (fun x => decide (x ≠ h))
      rspOut := s.rspOut ++ [.suspended]
      trace := s.trace ++
        [.cmd (.drive h), .read .fr (s.base + 0x18) (answer s .fr), .rsp .command .suspended] }

/-- A chunk: with flag answers that let k bytes go and then read full, one DRIVE sends exactly the k bytes from the
cursor on, in order, two FR reads and one DR write each and one FR read at the end, and suspends with the cursor k
further (R182, R184, R193, R198 of 41_async_write.md). -/
def Obligations.DriveSendsAChunkThenSuspends : Prop :=
  ∀ (k h : Nat) (fs rest : List Word) (f : Word) (s : State), OperationAlive s → quiet s = true → Launch s →
    s.len = s.buf.length → s.cur + k < s.len →
    s.uart.frq = fs ++ f :: rest → fs.length = 2 * k → letsSend k fs = true → txFull f = true →
    ∃ t, exec (.drive h) s = .next t ∧
      t.cur = s.cur + k ∧ t.opst = .suspended ∧ t.wake = some h ∧ t.upc = .idle ∧
      t.rspOut = s.rspOut ++ [.suspended] ∧
      t.uart.txlog = s.uart.txlog ++ ((s.buf.drop s.cur).take k).map zext32 ∧
      t.trace = s.trace ++ [.cmd (.drive h)] ++ sendEvents s.base s.buf k s.cur fs ++
        [.read .fr (s.base + 0x18) f, .rsp .command .suspended] ∧
      t.buf = s.buf ∧ t.len = s.len ∧ t.irqcnt = s.irqcnt ∧ t.base = s.base ∧ t.life = .ready

/-- Completion: with flag answers that let all the remaining bytes go, one DRIVE sends them all in order and responds
COMPLETE with the length (R182, R184, R193, R194, R198 of 41_async_write.md). -/
def Obligations.DriveSendsTheRestThenCompletes : Prop :=
  ∀ (k h : Nat) (fs rest : List Word) (s : State), OperationAlive s → quiet s = true → Launch s →
    s.len = s.buf.length → s.cur + k = s.len →
    s.uart.frq = fs ++ rest → fs.length = 2 * k → letsSend k fs = true →
    ∃ t, exec (.drive h) s = .next t ∧
      t.cur = s.len ∧ t.opst = .complete ∧ t.wake = s.wake ∧ t.upc = .idle ∧
      t.rspOut = s.rspOut ++ [.complete s.len] ∧
      t.uart.txlog = s.uart.txlog ++ (s.buf.drop s.cur).map zext32 ∧
      t.trace = s.trace ++ [.cmd (.drive h)] ++ sendEvents s.base s.buf k s.cur fs ++
        [.rsp .command (.complete s.len)] ∧
      t.buf = s.buf ∧ t.len = s.len ∧ t.irqcnt = s.irqcnt ∧ t.base = s.base ∧ t.life = .ready

/-- DRIVE does the same from ACTIVE and from SUSPENDED (R192 of 41_async_write.md). Stated where the command runs in
one step; the grouping is log entry 25. -/
def Obligations.DriveIgnoresActiveOrSuspended : Prop :=
  ∀ (h : Nat) (s : State), quiet s = true → s.life = .ready → s.cur < s.len →
    exec (.drive h) { s with opst := .active } = exec (.drive h) { s with opst := .suspended }

/-- The two outcomes of a DRIVE and the command still in progress, in every step of it: it responds SUSPENDED with the
handle registered and bytes left, or COMPLETE with the count, or it has not responded yet, which is the hang when D3
never ends and otherwise another agent's turn (R195 of 41_async_write.md; the grouping of micro-steps is log entry 25). -/
def Obligations.DriveOutcomes : Prop :=
  ∀ (h : Nat) (s t : State), OperationAlive s →
    (s.upc = .idle ∧ exec (.drive h) s = .next t ∨
      labelOf (.drive h) s.upc = true ∧ s.scr.h = h ∧ (pastCheck s.upc = true → s.cur < s.len) ∧ advance s = .next t) →
    (t.upc = .idle ∧ t.rspOut = s.rspOut ++ [.suspended] ∧ t.opst = .suspended ∧ t.wake = some h ∧ t.cur < t.len) ∨
    (t.upc = .idle ∧ t.rspOut = s.rspOut ++ [.complete t.cur] ∧ t.opst = .complete ∧ t.len ≤ t.cur ∧
      t.wake = s.wake) ∨
    (labelOf (.drive h) t.upc = true ∧ t.rspOut = s.rspOut ∧ t.opst ≠ .none ∧ t.wake = s.wake)

/-- DROP ends the operation: OPST is NONE, the cell is what it was or empty, nothing else of the block changes, no access
is made, and the driver is free again (R190, R197 of 41_async_write.md; BUF, LEN and CUR are log entry 24). -/
def Obligations.DropFreesTheDriver : Prop :=
  ∀ s : State, OperationAlive s → quiet s = true →
    ∃ w, (w = s.wake ∨ w = none) ∧
      exec .drop s = .next { s with
        opst := .none
        wake := w
        upc := .idle
        draws := s.draws + 1
        rspOut := s.rspOut ++ [.ok]
        trace := s.trace ++ [.cmd .drop, .rsp .command .ok]
        ghost := { s.ghost with opWrites := [] } }

/-- Handles are opaque: two DRIVEs of the same state with different handles end alike but for the handle registered or
latched and the scheduler's set, and so do two steps of a command in progress that latched different handles (R70 of
20_memory.md, R116 of 30_encoding.md; the woken set is log entry 22). -/
def Obligations.HandlesAreOpaque : Prop :=
  ∀ (h k : Nat) (s t : State),
    (OperationAlive s → s.upc = .idle → exec (.drive h) s = .next t →
      ∃ u, exec (.drive k) s = .next u ∧
        u.rspOut = t.rspOut ∧ u.cur = t.cur ∧ u.opst = t.opst ∧ u.upc = t.upc ∧ u.uart = t.uart ∧
        blockAccesses u.trace = blockAccesses t.trace ∧ u.wake.isSome = t.wake.isSome ∧
        (t.opst = .suspended ∧ t.upc = .idle → t.wake = some h ∧ u.wake = some k)) ∧
    (s.scr.h = h → advance s = .next t →
      ∃ u, advance { s with scr := { s.scr with h := k } } = .next u ∧
        u.rspOut = t.rspOut ∧ u.cur = t.cur ∧ u.opst = t.opst ∧ u.upc = t.upc ∧ u.uart = t.uart ∧
        blockAccesses u.trace = blockAccesses t.trace ∧ u.wake.isSome = t.wake.isSome ∧
        (u.wake = t.wake ∨ t.wake = some h ∧ u.wake = some k))

/-! ### The interrupt entry -/

/-- IRQ, from either port: count, one MIS read, the fire when the monitored condition holds, one ICR write, the response
OK on the port it came by; nothing of the write operation (R210 to R216 of 42_interrupt_wake.md, R125 of
30_encoding.md, R245 of 60_exceptions.md). The woken set is log entry 22. -/
def Obligations.IrqCountsReadsFiresClears : Prop :=
  ∀ (p : IrqPort) (s : State), s.life = .ready → s.ipc = .idle → entryQuiet s = true → Launch s →
    let t : State := { s with
      irqcnt := s.irqcnt + 1
      wake :=
        if wakeCondition s.cfg (answer s .mis) && s.cfg.wakeFireClears then none else s.wake
      wakeOut :=
        if wakeCondition s.cfg (answer s .mis) then s.wakeOut ++ s.wake.toList else s.wakeOut
      woken :=
        if wakeCondition s.cfg (answer s .mis) then
          s.woken ++ s.wake.toList.filter (fun x => decide (x ∉ s.woken))
        else s.woken
      scr := { s.scr with m := answer s .mis }
      irqPort := p
      ipc := .idle
      uart := { s.uart with ris := s.uart.ris &&& ~~~ s.cfg.clearAll, icr := s.cfg.clearAll }
      draws := s.draws + 1
      rspOut := if p = .command then s.rspOut ++ [.ok] else s.rspOut
      irqDone := if p = .request then s.irqDone ++ [.ok] else s.irqDone
      trace := s.trace ++
        ([.cmd .irq, .read .mis (s.base + 0x40) (answer s .mis)] ++
         (if wakeCondition s.cfg (answer s .mis) then s.wake.toList.map .wakeOut else []) ++
         [.write .icr (s.base + 0x44) s.cfg.clearAll, .rsp p .ok])
      ghost := { s.ghost with irqsDone := s.ghost.irqsDone + 1 } }
    startIrq p s = .next t ∧ (p = .command → exec .irq s = .next t)

/-- The counter rises by exactly 1 per invocation, whatever is pending, monitored or registered, and first of all (R211
of 42_interrupt_wake.md), so that after k completed IRQ commands it is k higher and k responses OK were given (R218). -/
def Obligations.IrqCountsOncePerInvocation : Prop :=
  (∀ s : State, s.ipc = .h1 → entryMicro s = .next { s with irqcnt := s.irqcnt + 1, ipc := .h2 }) ∧
  (∀ (p : IrqPort) (s t : State), s.life = .ready → startIrq p s = .next t → t.irqcnt = s.irqcnt + 1) ∧
  (∀ (k : Nat) (s : State), s.life = .ready → s.ipc = .idle → entryQuiet s = true → Launch s →
    ∃ t, execTimes .irq k s = .next t ∧ t.irqcnt = s.irqcnt + k ∧
      t.rspOut = s.rspOut ++ List.replicate k .ok ∧ t.ipc = .idle)

/-- The entry's micro-steps past the count. H2: one MIS read, the monitored condition decides whether H3 follows. H3, the
fire, in one micro-step: with a handle in the cell one wake event with that handle, and the cell is emptied when
WAKE_FIRE_CLEARS and kept otherwise; with an empty cell nothing is emitted and nothing changes, and the entry goes on to
acknowledge. H4: one ICR write, the response OK on the port the request came by, one more IRQ completed (R212 to R215 of
42_interrupt_wake.md, R83 of 20_memory.md, R245 of 60_exceptions.md). The woken set is log entry 22. -/
def Obligations.FireEmitsTheRegisteredHandle : Prop :=
  (∀ (s : State) (w : Nat), s.ipc = .h3 → s.wake = some w →
    ∃ t, entryMicro s = .next t ∧ t.ipc = .h4 ∧ t.wakeOut = s.wakeOut ++ [w] ∧
      t.trace = s.trace ++ [.wakeOut w] ∧ w ∈ t.woken ∧
      (s.cfg.wakeFireClears = true → t.wake = none) ∧ (s.cfg.wakeFireClears = false → t.wake = some w) ∧
      t.irqcnt = s.irqcnt ∧ t.opst = s.opst ∧ t.cur = s.cur ∧ t.uart = s.uart) ∧
  (∀ s : State, s.ipc = .h3 → s.wake = none → entryMicro s = .next { s with ipc := .h4 }) ∧
  (∀ s : State, Launch s → s.ipc = .h2 →
    entryMicro s = .next { s with
      ipc := if answer s .mis &&& s.cfg.wakeMask = 0#32 then .h4 else .h3
      scr := { s.scr with m := answer s .mis }
      draws := s.draws + 1
      trace := s.trace ++ [.read .mis (s.base + 0x40) (answer s .mis)] }) ∧
  (∀ s : State, Launch s → s.ipc = .h4 →
    entryMicro s = .next { s with
      ipc := .idle
      uart := { s.uart with ris := s.uart.ris &&& ~~~ s.cfg.clearAll, icr := s.cfg.clearAll }
      rspOut := if s.irqPort = .command then s.rspOut ++ [.ok] else s.rspOut
      irqDone := if s.irqPort = .request then s.irqDone ++ [.ok] else s.irqDone
      trace := s.trace ++ [.write .icr (s.base + 0x44) s.cfg.clearAll, .rsp s.irqPort .ok]
      ghost := { s.ghost with irqsDone := s.ghost.irqsDone + 1 } })

/-- IRQ leaves the write operation alone, whatever OPST, in every state and every step of the entry: LIFE, BASE, OPST, CUR,
LEN, BUF, the foreground phase, the DR queues and the configuration are unchanged (R210, R222 of
42_interrupt_wake.md). -/
def Obligations.IrqLeavesTheWriteOperation : Prop :=
  ∀ s t : State, ((∃ p, startIrq p s = .next t) ∨ advanceEntry s = .next t) →
    t.life = s.life ∧ t.base = s.base ∧ t.opst = s.opst ∧ t.cur = s.cur ∧ t.len = s.len ∧ t.buf = s.buf ∧
    t.upc = s.upc ∧ t.uart.txlog = s.uart.txlog ∧ t.uart.rxq = s.uart.rxq ∧ t.uart.frq = s.uart.frq ∧
    t.uart.imsc = s.uart.imsc ∧ t.uart.cr = s.uart.cr ∧ t.uart.lcrh = s.uart.lcrh ∧ t.uart.ibrd = s.uart.ibrd ∧
    t.uart.fbrd = s.uart.fbrd ∧ t.uart.ifls = s.uart.ifls ∧ t.cmdIn = s.cmdIn ∧ t.cfg = s.cfg

/-- As built, an interrupt with the receive source not pending wakes nobody: it is counted and cleared, and the
registration stays (R212 of 42_interrupt_wake.md, R240 of 60_exceptions.md, R282 of 70_reset_and_hazards.md). -/
def Obligations.OnlyTheReceiveSourceWakes : Prop :=
  ∀ s t : State, s.cfg.AsBuilt → s.cfg.Wf → s.ipc = .idle → s.life = .ready →
    s.uart.ris.getLsbD s.cfg.rxBit = false → exec .irq s = .next t → entryQuiet s = true →
    t.wake = s.wake ∧ t.wakeOut = s.wakeOut ∧ t.woken = s.woken ∧ t.irqcnt = s.irqcnt + 1 ∧
    t.uart.ris &&& s.cfg.sourceBits = 0#32

/-- The lost wake: with IRQ_PREEMPTS, an interrupt request served between D2 and DS of a DRIVE finds the cell empty,
fires nothing and clears the sources; the registration that follows is not fired by it (R283 of
70_reset_and_hazards.md, R243, R244). That the request waiting at DS is served before DS, and so in every such state, is
the model's choice, log entry 33: R125 of 30_encoding.md says only that it may be, and the other order is that of a
request which arrives after DS. -/
def Obligations.PreemptedDriveLosesTheWake : Prop :=
  ∀ s : State, s.cfg.irqPreempts = true → s.sched = [] → s.bus = none → s.irqReq = 1 → s.ipc = .idle →
    s.life = .ready → s.upc = .ds → s.wake = none → Launch s →
    ∃ t, stepTimes 2 s = .next t ∧
      t.wake = some s.scr.h ∧ t.opst = .suspended ∧ t.upc = .idle ∧ t.irqcnt = s.irqcnt + 1 ∧
      t.wakeOut = s.wakeOut ∧ t.irqDone = s.irqDone ++ [.ok] ∧ t.rspOut = s.rspOut ++ [.suspended] ∧
      t.cur = s.cur ∧ t.uart.ris = s.uart.ris &&& ~~~ s.cfg.clearAll

/-- A wake does not mean room: a suspended operation, an interrupt with the monitored condition, and a redrive that
finds the FIFO still full; the handle is emitted once, registered again, and the cursor does not move (R220, R221 of
42_interrupt_wake.md). On the mock, whose flag answer stays full. The woken set is log entry 22. -/
def Obligations.WakeThenRedriveMaySuspendAgain : Prop :=
  ∀ (h : Nat) (f : Word) (s : State), OperationAlive s → s.upc = .idle → s.ipc = .idle → Alone s → Launch s →
    s.cur < s.len → s.uart.mode = .mock → s.uart.frq = [f] → txFull f = true → s.cfg.wakeFireClears = true →
    wakeCondition s.cfg (s.uart.ris &&& s.uart.imsc) = true →
    ∃ t u v, exec (.drive h) s = .next t ∧ exec .irq t = .next u ∧ exec (.drive h) u = .next v ∧
      t.wake = some h ∧ u.wake = none ∧ v.wake = some h ∧ u.wakeOut = s.wakeOut ++ [h] ∧ v.wakeOut = u.wakeOut ∧
      h ∈ u.woken ∧ h ∉ v.woken ∧ v.cur = s.cur ∧ v.opst = .suspended ∧ v.irqcnt = s.irqcnt + 1 ∧
      v.rspOut = s.rspOut ++ [.suspended, .ok, .suspended]

/-! ### The launch premises -/

/-- With a base that is no multiple of 4, or so high that BASE + 0x47 reaches 2^AW, every access of the block is refused
by the model under that name; the commands that make no access run all the same (R71, R75 of 20_memory.md, U9 of
93_implementation_defined.md; the form of the refusal is log entry 16). -/
def Obligations.UnlaunchableBaseRefusesEveryAccess : Prop :=
  ∀ (s : State) (r : Refusal),
    (s.base % 4 ≠ 0 ∧ r = .baseMisaligned ∨
      s.base % 4 = 0 ∧ 2 ^ s.cfg.aw ≤ s.base + 0x47 ∧ r = .addressOverflow) → quiet s = true →
    (DriverFree s →
      exec .init s = .refused r ∧ (∀ b, exec (.putc b) s = .refused r) ∧ exec .getc s = .refused r ∧
      exec .rxpend s = .refused r ∧ exec .ack s = .refused r ∧ ∀ bytes, ∃ t, exec (.beginWrite bytes) s = .next t) ∧
    (OperationAlive s →
      (∀ h, s.cur < s.len → exec (.drive h) s = .refused r) ∧ ∃ t, exec .drop s = .next t) ∧
    (s.life = .ready → s.ipc = .idle → exec .irq s = .refused r)

/-! ### Frames -/

/-- INIT, PUTC, GETC, RXPEND, ACK and BEGIN, in every state and every step of them: LIFE, BASE, WAKE, IRQCNT, the
interrupt side, the command port and the parameters are unchanged; but for BEGIN so are OPST, CUR, LEN and BUF, and but
for BEGIN and INIT the peripheral's configuration; only PUTC adds to the DR queue, only GETC takes from it, only ACK
clears sources (R153 to R161 of 40_driver_ops.md, R180). -/
def Obligations.FrameOfTheDriverCommands : Prop :=
  ∀ (i : Instr) (s t : State),
    (i = .init ∨ (∃ b, i = .putc b) ∨ i = .getc ∨ i = .rxpend ∨ i = .ack ∨ (∃ bytes, i = .beginWrite bytes)) →
    StepOf i s t →
    t.life = s.life ∧ t.base = s.base ∧ t.wake = s.wake ∧ t.irqcnt = s.irqcnt ∧ t.ipc = s.ipc ∧
    t.irqReq = s.irqReq ∧ t.irqDone = s.irqDone ∧ t.wakeOut = s.wakeOut ∧ t.woken = s.woken ∧
    t.cmdIn = s.cmdIn ∧ t.cfg = s.cfg ∧ t.bus = s.bus ∧ t.sched = s.sched ∧
    ((∀ bytes, i ≠ .beginWrite bytes) →
      t.opst = s.opst ∧ t.cur = s.cur ∧ t.len = s.len ∧ t.buf = s.buf) ∧
    (i ≠ .init →
      t.uart.ibrd = s.uart.ibrd ∧ t.uart.fbrd = s.uart.fbrd ∧ t.uart.lcrh = s.uart.lcrh ∧
      t.uart.cr = s.uart.cr ∧ t.uart.ifls = s.uart.ifls ∧ t.uart.imsc = s.uart.imsc) ∧
    ((∀ b, i ≠ .putc b) → t.uart.txlog = s.uart.txlog) ∧
    (i ≠ .getc → t.uart.rxq = s.uart.rxq) ∧
    (i ≠ .ack → t.uart.ris = s.uart.ris ∧ t.uart.icr = s.uart.icr) ∧
    t.uart.mode = s.uart.mode

/-- DRIVE and DROP, in every state and every step of them: LIFE, BASE, IRQCNT, LEN, BUF, the interrupt side, the wake
port, the command port, the parameters, the peripheral's configuration, its sources and its receive queue are
unchanged; the cursor never goes back; DROP makes no access (R182, R190, R222). That BUF, LEN and CUR are unchanged by
DROP is the model's choice, log entry 24. -/
def Obligations.FrameOfDriveAndDrop : Prop :=
  ∀ (i : Instr) (s t : State), ((∃ h, i = .drive h) ∨ i = .drop) → StepOf i s t →
    t.life = s.life ∧ t.base = s.base ∧ t.irqcnt = s.irqcnt ∧ t.len = s.len ∧ t.buf = s.buf ∧ t.ipc = s.ipc ∧
    t.irqReq = s.irqReq ∧ t.irqDone = s.irqDone ∧ t.wakeOut = s.wakeOut ∧ t.cmdIn = s.cmdIn ∧ t.cfg = s.cfg ∧
    t.bus = s.bus ∧ t.sched = s.sched ∧ s.cur ≤ t.cur ∧
    t.uart.ibrd = s.uart.ibrd ∧ t.uart.fbrd = s.uart.fbrd ∧ t.uart.lcrh = s.uart.lcrh ∧ t.uart.cr = s.uart.cr ∧
    t.uart.ifls = s.uart.ifls ∧ t.uart.imsc = s.uart.imsc ∧ t.uart.ris = s.uart.ris ∧ t.uart.rxq = s.uart.rxq ∧
    (i = .drop → t.uart = s.uart ∧ t.cur = s.cur ∧ blockAccesses t.trace = blockAccesses s.trace)

/-- What each command may answer on the response port, in every step of it: at most one response, of a kind R120 of
30_encoding.md lists for it. -/
def Obligations.ResponsesEachCommandMayGive : Prop :=
  ∀ (i : Instr) (s t : State), isCommand i = true → StepOf i s t →
    t.rspOut = s.rspOut ∨ ∃ x, t.rspOut = s.rspOut ++ [x] ∧ mayRespond i x = true

/-- What the ports show. The bytes of every response and of a wake event, their operands little-endian in whole widths
(R119, R126 of 30_encoding.md), the reason bytes (R232 of 60_exceptions.md); the response port's bytes come from one
list of responses only; the status port is LIFE and OPST in their codes, CUR, LEN, WAKE and IRQCNT (R31, R37, R41 of
10_state.md). The handle shown for an empty cell is log entry 19 and is not stated. -/
def Obligations.PortsShowTheirBytes : Prop :=
  (∀ c : Config,
    responseBytes c .ok = [0x00#8] ∧ (∀ b, responseBytes c (.byte b) = [0x01#8, b]) ∧
    responseBytes c (.bool false) = [0x02#8, 0x00#8] ∧ responseBytes c (.bool true) = [0x02#8, 0x01#8] ∧
    responseBytes c .suspended = [0x03#8] ∧ (∀ code, responseBytes c (.fatal code) = [0xFE#8, code]) ∧
    (∀ r b, (r, b) ∈ [(Reason.badOpcode, 1#8), (.notConstructed, 2#8), (.alreadyConstructed, 3#8), (.opAlive, 4#8),
      (.noOp, 5#8), (.halted, 6#8)] → responseBytes c (.refused r) = [0xFF#8, b]) ∧
    (c.Wf → ∀ n, n < 2 ^ c.lenw →
      ∃ bs, responseBytes c (.complete n) = 0x04#8 :: bs ∧ bs.length = c.lenw / 8 ∧ leNat bs = n) ∧
    (c.Wf → ∀ h, h < 2 ^ c.hw →
      ∃ bs, wakeBytes c h = 0x80#8 :: bs ∧ bs.length = c.hw / 8 ∧ leNat bs = h)) ∧
  (∀ s t : State, s.cfg.Wf → t.cfg = s.cfg → (∀ n, .complete n ∈ s.rspOut ++ t.rspOut → n < 2 ^ s.cfg.lenw) →
    responseStream s = responseStream t → s.rspOut = t.rspOut) ∧
  (∀ s : State,
    (∀ l b, (l, b) ∈ [(Life.reset, 0#2), (.ready, 1#2), (.halted, 2#2)] → s.life = l → (statusPort s).life = b) ∧
    (∀ o b, (o, b) ∈ [(OpState.none, 0#2), (.active, 1#2), (.suspended, 2#2), (.complete, 3#2)] → s.opst = o →
      (statusPort s).opst = b) ∧
    (statusPort s).cur = s.cur ∧ (statusPort s).len = s.len ∧ (statusPort s).irqcnt = s.irqcnt ∧
    (s.wake = none → (statusPort s).wakeValid = false) ∧
    (∀ h, s.wake = some h → (statusPort s).wakeValid = true ∧ (statusPort s).wakeHandle = h))

/-! ### Whole-machine rules -/

/-- Reset satisfies the invariant, and the invariant is R42 of 10_state.md at a command boundary while LIFE = READY. -/
def Obligations.ResetSatisfiesInv : Prop :=
  BlockInv State.reset ∧
  ∀ s : State, BlockInv s → Between s → s.life = .ready →
    s.base ≠ 0 ∧ (s.opst ≠ .none → s.cur ≤ s.len) ∧
    ((s.opst = .active ∨ s.opst = .suspended) → s.cur < s.len) ∧ (s.opst = .complete → s.cur = s.len) ∧
    (s.opst ≠ .none → s.ghost.opWrites = (s.buf.take s.cur).map zext32) ∧ s.irqcnt = s.ghost.irqsDone

/-- Every step keeps the invariants of R42 of 10_state.md, carried through the micro-steps, from any state that has
them. -/
def Obligations.StepKeepsInv : Prop :=
  ∀ s t : State, BlockInv s → step s = .next t → BlockInv t

/-- No step from a state with the invariant stops for want of a byte at the cursor: D4 always finds one (R188 of
41_async_write.md). -/
def Obligations.NoStepFaults : Prop :=
  ∀ (s : State) (r : Fault), BlockInv s → step s ≠ .fault r

/-- The block only ever makes the accesses of the access matrix R58 of 10_state.md: it never reads RIS, ICR or a
configuration register, never writes FR, RIS or MIS (R46, R54 to R56). -/
def Obligations.StepMakesListedAccessesOnly : Prop :=
  ∀ s t : State, s.trace.all listedAccess = true → step s = .next t → t.trace.all listedAccess = true

/-- The accesses of each command that completes in its step, exactly, in the order of R58 of 10_state.md. -/
def Obligations.AccessMatrixOfTheCommands : Prop :=
  ∀ (s t : State) (i : Instr), quiet s = true → s.upc = .idle → s.ipc = .idle → s.mark = false →
    exec i s = .next t → t.upc = .idle → t.mark = false →
    ((∃ base, i = .construct base) ∨ (∃ bytes, i = .beginWrite bytes) ∨ i = .drop →
      blockAccesses t.trace = blockAccesses s.trace) ∧
    (i = .init → blockAccesses t.trace = blockAccesses s.trace ++
      [(true, .cr), (true, .ibrd), (true, .fbrd), (true, .lcrh), (true, .ifls), (true, .imsc), (true, .cr)]) ∧
    ((∃ b, i = .putc b) → blockAccesses t.trace = blockAccesses s.trace ++ [(false, .fr), (true, .dr)]) ∧
    (i = .getc → blockAccesses t.trace = blockAccesses s.trace ++ [(false, .fr), (false, .dr)]) ∧
    (i = .rxpend → blockAccesses t.trace = blockAccesses s.trace ++ [(false, .mis)]) ∧
    (i = .ack → blockAccesses t.trace = blockAccesses s.trace ++ [(true, .icr)]) ∧
    (i = .irq → blockAccesses t.trace = blockAccesses s.trace ++ [(false, .mis), (true, .icr)])

/-- The parameters never change; while a driver exists its base never changes and only the reset input ends it; CONSTRUCT
alone makes a driver (R31, R32 of 10_state.md). -/
def Obligations.BaseIsBoundOnce : Prop :=
  ∀ s t : State, BlockInv s → step s = .next t →
    t.cfg = s.cfg ∧
    (s.life = .ready → (∀ rest, s.sched ≠ .reset :: rest) → t.life = .ready ∧ t.base = s.base) ∧
    (s.life ≠ .ready → t.life = .ready → s.life = .reset ∧ t.base ≠ 0 ∧ t.wake = none ∧ t.irqcnt = 0 ∧ t.opst = .none)

/-- The trace and the ports only grow: no step takes back an event, a response or a wake event (R80 of 20_memory.md says
what is added to the trace). That the ports are whole histories is the model's choice, log entry 28, and so is that they
and the trace outlive the reset input, log entry 21. -/
def Obligations.TraceAndPortsOnlyGrow : Prop :=
  ∀ s t : State, step s = .next t →
    s.trace <+: t.trace ∧ s.rspOut <+: t.rspOut ∧ s.irqDone <+: t.irqDone ∧ s.wakeOut <+: t.wakeOut ∧
    s.uart.txlog <+: t.uart.txlog

/-- The laws of the wake cell. On every step: nothing of the cell happens; or the entry fires, one wake event of the
handle the cell held, which is emptied when WAKE_FIRE_CLEARS; or a DRIVE suspends with its handle in the cell, whatever
was there; or the cell is emptied without an event, by the reset input or by a command that answers OK. By micro-step:
DS alone registers, C3 empties, X1 may, no other label of the foreground touches the cell, none emits; H3 alone fires. No
move of another agent but reset, no register row and no refusal touches it (R83 of 20_memory.md, R187, R190 of
41_async_write.md, R213, R217 of 42_interrupt_wake.md, R270 of 70_reset_and_hazards.md). -/
def Obligations.WakeCellLaws : Prop :=
  (∀ s t : State, step s = .next t →
    (t.wake = s.wake ∧ t.wakeOut = s.wakeOut) ∨
    (∃ w, s.wake = some w ∧ t.wakeOut = s.wakeOut ++ [w] ∧ t.wake = (if s.cfg.wakeFireClears then none else some w) ∧
      (s.ipc ≠ .idle ∨ t.irqcnt = s.irqcnt + 1)) ∨
    (t.wake = some t.scr.h ∧ t.opst = .suspended ∧ t.wakeOut = s.wakeOut ∧ t.rspOut = s.rspOut ++ [.suspended]) ∨
    (t.wake = none ∧ t.wakeOut = s.wakeOut ∧
      ((∃ rest, s.sched = .reset :: rest) ∨ t.opst = .none ∧ t.rspOut = s.rspOut ++ [.ok]))) ∧
  (∀ s t : State, micro s = .next t →
    t.wakeOut = s.wakeOut ∧
    (s.upc = .ds → t.wake = some s.scr.h) ∧ (s.upc = .c3 → t.wake = none) ∧
    (s.upc = .x1 → t.wake = s.wake ∨ t.wake = none) ∧
    (s.upc ≠ .ds → s.upc ≠ .c3 → s.upc ≠ .x1 → t.wake = s.wake)) ∧
  (∀ s t : State, entryMicro s = .next t →
    (s.ipc = .h3 → t.wakeOut = s.wakeOut ++ s.wake.toList ∧
      t.wake = (if s.cfg.wakeFireClears then none else s.wake)) ∧
    (s.ipc ≠ .h3 → t.wakeOut = s.wakeOut ∧ t.wake = s.wake)) ∧
  (∀ (m : Move) (s : State), m ≠ .reset → (applyMove m s).wake = s.wake ∧ (applyMove m s).wakeOut = s.wakeOut) ∧
  (∀ s : State, (applyMove .reset s).wake = none ∧ (applyMove .reset s).wakeOut = s.wakeOut) ∧
  (∀ (i : Instr) (s t : State), isCommand i = false → exec i s = .next t → t.wake = s.wake ∧ t.wakeOut = s.wakeOut) ∧
  (∀ (p : IrqPort) (r : Reason) (s : State), (refuse p r s).wake = s.wake ∧ (refuse p r s).wakeOut = s.wakeOut)

/-- The completion property: whenever a step places COMPLETE n on the response port, n is the length of the buffer, and
the values the live operation wrote to DR are exactly its bytes, zero-extended, in order, each once (R194 of
41_async_write.md). -/
def Obligations.CompletionProperty : Prop :=
  ∀ (s t : State) (n : Nat), BlockInv s → step s = .next t → t.rspOut = s.rspOut ++ [.complete n] →
    n = t.buf.length ∧ t.ghost.opWrites = t.buf.map zext32

/-- While an operation is alive, the values the block writes to DR in a step are exactly what the step adds to the
operation's own record, so that record is the trace's (R42 e, R61 of 10_state.md). -/
def Obligations.OperationWritesAreTheTraces : Prop :=
  ∀ s t : State, BlockInv s → s.opst ≠ .none → step s = .next t → t.opst ≠ .none →
    ∃ es, t.trace = s.trace ++ es ∧ t.ghost.opWrites = s.ghost.opWrites ++ dataWritesOf es
end

