-- ==== Sys2Proof/Laws/Encoding.lean ====
section
/-! SUPPORT. Little-endian operands and the pieces of the decoder: what each helper of Decode.lean does, said once. -/

namespace Sys2Proof

@[simp] theorem leBytes_length (n v : Nat) : (leBytes n v).length = n := by
  induction n generalizing v with
  | zero => rfl
  | succ n ih => simp [leBytes, ih]

/-- Reading back the n bytes of a number that fits them. -/
theorem leNat_leBytes {n v : Nat} (h : v < 256 ^ n) : leNat (leBytes n v) = v := by
  induction n generalizing v with
  | zero => simp at h; simp [leBytes, leNat, h]
  | succ n ih =>
    have hv : v / 256 < 256 ^ n := by
      rw [Nat.div_lt_iff_lt_mul (by norm_num)]; rwa [pow_succ] at h
    simp only [leBytes, leNat, ih hv, BitVec.toNat_ofNat]
    omega

/-- n bytes are a number below 256 to the n. -/
theorem leNat_lt (bs : List Byte) : leNat bs < 256 ^ bs.length := by
  induction bs with
  | nil => simp [leNat]
  | cons b bs ih =>
    have hb := b.isLt
    simp only [leNat, List.length_cons, pow_succ]
    omega

/-- The bytes of the number a byte list is. -/
theorem leBytes_leNat (bs : List Byte) : leBytes bs.length (leNat bs) = bs := by
  induction bs with
  | nil => rfl
  | cons b bs ih =>
    have hb := b.isLt
    have h0 : BitVec.ofNat 8 (b.toNat + 256 * leNat bs) = b := by
      apply BitVec.eq_of_toNat_eq
      simp only [BitVec.toNat_ofNat]
      omega
    have h1 : (b.toNat + 256 * leNat bs) / 256 = leNat bs := by omega
    simp only [List.length_cons, leNat, leBytes, h0, h1, ih]

/-- A whole number of bytes holds exactly the width's numbers. -/
theorem pow_bytes {w : Nat} (h : w % 8 = 0) : 256 ^ (w / 8) = 2 ^ w := by
  have hw : w = 8 * (w / 8) := by omega
  conv_rhs => rw [hw, pow_mul]
  norm_num

theorem takeBytes_append {n : Nat} (a r : List Byte) (h : a.length = n) :
    takeBytes n (a ++ r) = some (a, r) := by
  subst h
  simp [takeBytes]

theorem takeBytes_eq_some {n : Nat} {bs a r : List Byte} (h : takeBytes n bs = some (a, r)) :
    bs = a ++ r ∧ a.length = n := by
  unfold takeBytes at h
  split at h
  · cases h
  · cases h
    exact ⟨(List.take_append_drop n bs).symm, by simp; omega⟩

theorem takeBytes_eq_none {n : Nat} {bs : List Byte} : takeBytes n bs = none ↔ bs.length < n := by
  unfold takeBytes
  split <;> simp_all

/-- What decodeNumber finds: the operand bytes at the head of the stream. -/
theorem decodeNumber_eq_instr {n : Nat} {bs rest : List Byte} {mk : Nat → Instr} {i : Instr}
    (h : decodeNumber n bs mk = .instr i rest) :
    ∃ v, bs = v ++ rest ∧ v.length = n ∧ i = mk (leNat v) := by
  unfold decodeNumber at h
  split at h
  · cases h
  · rename_i v r hv
    cases h
    exact ⟨v, (takeBytes_eq_some hv).1, (takeBytes_eq_some hv).2, rfl⟩

/-- What decodeBuffer finds: the length bytes, then as many bytes as they say. -/
theorem decodeBuffer_eq_instr {n : Nat} {bs rest : List Byte} {i : Instr}
    (h : decodeBuffer n bs = .instr i rest) :
    ∃ len bytes, bs = len ++ (bytes ++ rest) ∧ len.length = n ∧ bytes.length = leNat len ∧
      i = .beginWrite bytes := by
  unfold decodeBuffer at h
  split at h
  · cases h
  · rename_i len r hlen
    split at h
    · cases h
    · rename_i bytes r' hbytes
      cases h
      obtain ⟨h1, h2⟩ := takeBytes_eq_some hlen
      obtain ⟨h3, h4⟩ := takeBytes_eq_some hbytes
      exact ⟨len, bytes, by rw [h1, h3], h2, h4, rfl⟩

theorem decodeByte_eq_instr {bs rest : List Byte} {i : Instr} (h : decodeByte bs = .instr i rest) :
    ∃ b, bs = b :: rest ∧ i = .putc b := by
  cases bs with
  | nil => cases h
  | cons b r => cases h; exact ⟨b, rfl, rfl⟩

/-- The number operand a command of format A or H carries is read back, whatever follows it. -/
theorem decodeNumber_leBytes {n v : Nat} (h : v < 256 ^ n) (rest : List Byte) (mk : Nat → Instr) :
    decodeNumber n (leBytes n v ++ rest) mk = .instr (mk v) rest := by
  simp [decodeNumber, takeBytes_append _ _ (leBytes_length n v), leNat_leBytes h]

/-- The buffer operand of BEGIN is read back, whatever follows it. -/
theorem decodeBuffer_leBytes {n : Nat} (bytes rest : List Byte) (h : bytes.length < 256 ^ n) :
    decodeBuffer n (leBytes n bytes.length ++ bytes ++ rest) = .instr (.beginWrite bytes) rest := by
  simp [decodeBuffer, List.append_assoc, takeBytes_append _ _ (leBytes_length n bytes.length),
    leNat_leBytes h, takeBytes_append bytes rest rfl]

/-- Every transaction the decoder accepts is a register row. -/
theorem decodeTxn_rowReg {t : Txn} {i : Instr} (h : decodeTxn t = .ok i) : ∃ r, Machine.rowReg i = some r := by
  unfold decodeTxn decodeReadOnly at h
  split at h <;> first
    | (cases h <;> exact ⟨_, rfl⟩)
    | (split at h <;> cases h; exact ⟨_, rfl⟩)

end Sys2Proof
end

