-- ==== Sys2Proof/Laws/State.lean ====
section
/-! SUPPORT. One lemma per field per update, so that no proof unfolds a record update: the shared operations of
Machine/Ops.lean leave every field of the state alone but the ones named here. -/

namespace Sys2Proof.Machine

variable (s : State)

/-! ### afterRead -/

@[simp] theorem afterRead_cfg (r : Reg) : (afterRead s r).cfg = s.cfg := rfl
@[simp] theorem afterRead_life (r : Reg) : (afterRead s r).life = s.life := rfl
@[simp] theorem afterRead_base (r : Reg) : (afterRead s r).base = s.base := rfl
@[simp] theorem afterRead_wake (r : Reg) : (afterRead s r).wake = s.wake := rfl
@[simp] theorem afterRead_irqcnt (r : Reg) : (afterRead s r).irqcnt = s.irqcnt := rfl
@[simp] theorem afterRead_buf (r : Reg) : (afterRead s r).buf = s.buf := rfl
@[simp] theorem afterRead_len (r : Reg) : (afterRead s r).len = s.len := rfl
@[simp] theorem afterRead_cur (r : Reg) : (afterRead s r).cur = s.cur := rfl
@[simp] theorem afterRead_opst (r : Reg) : (afterRead s r).opst = s.opst := rfl
@[simp] theorem afterRead_upc (r : Reg) : (afterRead s r).upc = s.upc := rfl
@[simp] theorem afterRead_ipc (r : Reg) : (afterRead s r).ipc = s.ipc := rfl
@[simp] theorem afterRead_scr (r : Reg) : (afterRead s r).scr = s.scr := rfl
@[simp] theorem afterRead_irqPort (r : Reg) : (afterRead s r).irqPort = s.irqPort := rfl
@[simp] theorem afterRead_cmdIn (r : Reg) : (afterRead s r).cmdIn = s.cmdIn := rfl
@[simp] theorem afterRead_rspOut (r : Reg) : (afterRead s r).rspOut = s.rspOut := rfl
@[simp] theorem afterRead_irqReq (r : Reg) : (afterRead s r).irqReq = s.irqReq := rfl
@[simp] theorem afterRead_irqDone (r : Reg) : (afterRead s r).irqDone = s.irqDone := rfl
@[simp] theorem afterRead_wakeOut (r : Reg) : (afterRead s r).wakeOut = s.wakeOut := rfl
@[simp] theorem afterRead_trace (r : Reg) : (afterRead s r).trace = s.trace ++ [.read r (regAddr s r) (answer s r)] := rfl
@[simp] theorem afterRead_uart (r : Reg) : (afterRead s r).uart = uartAfterRead s.uart r := rfl
@[simp] theorem afterRead_bus (r : Reg) : (afterRead s r).bus = s.bus := rfl
@[simp] theorem afterRead_woken (r : Reg) : (afterRead s r).woken = s.woken := rfl
@[simp] theorem afterRead_sched (r : Reg) : (afterRead s r).sched = s.sched := rfl
@[simp] theorem afterRead_draws (r : Reg) : (afterRead s r).draws = s.draws + 1 := rfl
@[simp] theorem afterRead_mark (r : Reg) : (afterRead s r).mark = s.mark := rfl
@[simp] theorem afterRead_ghost (r : Reg) : (afterRead s r).ghost = s.ghost := rfl

/-! ### afterWrite -/

@[simp] theorem afterWrite_cfg (r : Reg) (v : Word) : (afterWrite s r v).cfg = s.cfg := rfl
@[simp] theorem afterWrite_life (r : Reg) (v : Word) : (afterWrite s r v).life = s.life := rfl
@[simp] theorem afterWrite_base (r : Reg) (v : Word) : (afterWrite s r v).base = s.base := rfl
@[simp] theorem afterWrite_wake (r : Reg) (v : Word) : (afterWrite s r v).wake = s.wake := rfl
@[simp] theorem afterWrite_irqcnt (r : Reg) (v : Word) : (afterWrite s r v).irqcnt = s.irqcnt := rfl
@[simp] theorem afterWrite_buf (r : Reg) (v : Word) : (afterWrite s r v).buf = s.buf := rfl
@[simp] theorem afterWrite_len (r : Reg) (v : Word) : (afterWrite s r v).len = s.len := rfl
@[simp] theorem afterWrite_cur (r : Reg) (v : Word) : (afterWrite s r v).cur = s.cur := rfl
@[simp] theorem afterWrite_opst (r : Reg) (v : Word) : (afterWrite s r v).opst = s.opst := rfl
@[simp] theorem afterWrite_upc (r : Reg) (v : Word) : (afterWrite s r v).upc = s.upc := rfl
@[simp] theorem afterWrite_ipc (r : Reg) (v : Word) : (afterWrite s r v).ipc = s.ipc := rfl
@[simp] theorem afterWrite_scr (r : Reg) (v : Word) : (afterWrite s r v).scr = s.scr := rfl
@[simp] theorem afterWrite_irqPort (r : Reg) (v : Word) : (afterWrite s r v).irqPort = s.irqPort := rfl
@[simp] theorem afterWrite_cmdIn (r : Reg) (v : Word) : (afterWrite s r v).cmdIn = s.cmdIn := rfl
@[simp] theorem afterWrite_rspOut (r : Reg) (v : Word) : (afterWrite s r v).rspOut = s.rspOut := rfl
@[simp] theorem afterWrite_irqReq (r : Reg) (v : Word) : (afterWrite s r v).irqReq = s.irqReq := rfl
@[simp] theorem afterWrite_irqDone (r : Reg) (v : Word) : (afterWrite s r v).irqDone = s.irqDone := rfl
@[simp] theorem afterWrite_wakeOut (r : Reg) (v : Word) : (afterWrite s r v).wakeOut = s.wakeOut := rfl
@[simp] theorem afterWrite_trace (r : Reg) (v : Word) : (afterWrite s r v).trace = s.trace ++ [.write r (regAddr s r) v] := rfl
@[simp] theorem afterWrite_uart (r : Reg) (v : Word) : (afterWrite s r v).uart = uartAfterWrite s.uart v r := rfl
@[simp] theorem afterWrite_bus (r : Reg) (v : Word) : (afterWrite s r v).bus = s.bus := rfl
@[simp] theorem afterWrite_woken (r : Reg) (v : Word) : (afterWrite s r v).woken = s.woken := rfl
@[simp] theorem afterWrite_sched (r : Reg) (v : Word) : (afterWrite s r v).sched = s.sched := rfl
@[simp] theorem afterWrite_draws (r : Reg) (v : Word) : (afterWrite s r v).draws = s.draws := rfl
@[simp] theorem afterWrite_mark (r : Reg) (v : Word) : (afterWrite s r v).mark = s.mark := rfl
@[simp] theorem afterWrite_ghost (r : Reg) (v : Word) : (afterWrite s r v).ghost = s.ghost := rfl

/-! ### otherAccess -/

@[simp] theorem otherAccess_cfg (r : Reg) (a : Access) : (otherAccess r a s).cfg = s.cfg := by cases a <;> rfl
@[simp] theorem otherAccess_life (r : Reg) (a : Access) : (otherAccess r a s).life = s.life := by cases a <;> rfl
@[simp] theorem otherAccess_base (r : Reg) (a : Access) : (otherAccess r a s).base = s.base := by cases a <;> rfl
@[simp] theorem otherAccess_wake (r : Reg) (a : Access) : (otherAccess r a s).wake = s.wake := by cases a <;> rfl
@[simp] theorem otherAccess_irqcnt (r : Reg) (a : Access) : (otherAccess r a s).irqcnt = s.irqcnt := by cases a <;> rfl
@[simp] theorem otherAccess_buf (r : Reg) (a : Access) : (otherAccess r a s).buf = s.buf := by cases a <;> rfl
@[simp] theorem otherAccess_len (r : Reg) (a : Access) : (otherAccess r a s).len = s.len := by cases a <;> rfl
@[simp] theorem otherAccess_cur (r : Reg) (a : Access) : (otherAccess r a s).cur = s.cur := by cases a <;> rfl
@[simp] theorem otherAccess_opst (r : Reg) (a : Access) : (otherAccess r a s).opst = s.opst := by cases a <;> rfl
@[simp] theorem otherAccess_upc (r : Reg) (a : Access) : (otherAccess r a s).upc = s.upc := by cases a <;> rfl
@[simp] theorem otherAccess_ipc (r : Reg) (a : Access) : (otherAccess r a s).ipc = s.ipc := by cases a <;> rfl
@[simp] theorem otherAccess_scr (r : Reg) (a : Access) : (otherAccess r a s).scr = s.scr := by cases a <;> rfl
@[simp] theorem otherAccess_irqPort (r : Reg) (a : Access) : (otherAccess r a s).irqPort = s.irqPort := by cases a <;> rfl
@[simp] theorem otherAccess_cmdIn (r : Reg) (a : Access) : (otherAccess r a s).cmdIn = s.cmdIn := by cases a <;> rfl
@[simp] theorem otherAccess_rspOut (r : Reg) (a : Access) : (otherAccess r a s).rspOut = s.rspOut := by cases a <;> rfl
@[simp] theorem otherAccess_irqReq (r : Reg) (a : Access) : (otherAccess r a s).irqReq = s.irqReq := by cases a <;> rfl
@[simp] theorem otherAccess_irqDone (r : Reg) (a : Access) : (otherAccess r a s).irqDone = s.irqDone := by cases a <;> rfl
@[simp] theorem otherAccess_wakeOut (r : Reg) (a : Access) : (otherAccess r a s).wakeOut = s.wakeOut := by cases a <;> rfl
@[simp] theorem otherAccess_bus (r : Reg) (a : Access) : (otherAccess r a s).bus = s.bus := by cases a <;> rfl
@[simp] theorem otherAccess_woken (r : Reg) (a : Access) : (otherAccess r a s).woken = s.woken := by cases a <;> rfl
@[simp] theorem otherAccess_sched (r : Reg) (a : Access) : (otherAccess r a s).sched = s.sched := by cases a <;> rfl
@[simp] theorem otherAccess_mark (r : Reg) (a : Access) : (otherAccess r a s).mark = s.mark := by cases a <;> rfl
@[simp] theorem otherAccess_ghost (r : Reg) (a : Access) : (otherAccess r a s).ghost = s.ghost := by cases a <;> rfl

/-! ### logCmd -/

@[simp] theorem logCmd_cfg (i : Instr) : (logCmd i s).cfg = s.cfg := rfl
@[simp] theorem logCmd_life (i : Instr) : (logCmd i s).life = s.life := rfl
@[simp] theorem logCmd_base (i : Instr) : (logCmd i s).base = s.base := rfl
@[simp] theorem logCmd_wake (i : Instr) : (logCmd i s).wake = s.wake := rfl
@[simp] theorem logCmd_irqcnt (i : Instr) : (logCmd i s).irqcnt = s.irqcnt := rfl
@[simp] theorem logCmd_buf (i : Instr) : (logCmd i s).buf = s.buf := rfl
@[simp] theorem logCmd_len (i : Instr) : (logCmd i s).len = s.len := rfl
@[simp] theorem logCmd_cur (i : Instr) : (logCmd i s).cur = s.cur := rfl
@[simp] theorem logCmd_opst (i : Instr) : (logCmd i s).opst = s.opst := rfl
@[simp] theorem logCmd_upc (i : Instr) : (logCmd i s).upc = s.upc := rfl
@[simp] theorem logCmd_ipc (i : Instr) : (logCmd i s).ipc = s.ipc := rfl
@[simp] theorem logCmd_scr (i : Instr) : (logCmd i s).scr = s.scr := rfl
@[simp] theorem logCmd_irqPort (i : Instr) : (logCmd i s).irqPort = s.irqPort := rfl
@[simp] theorem logCmd_cmdIn (i : Instr) : (logCmd i s).cmdIn = s.cmdIn := rfl
@[simp] theorem logCmd_rspOut (i : Instr) : (logCmd i s).rspOut = s.rspOut := rfl
@[simp] theorem logCmd_irqReq (i : Instr) : (logCmd i s).irqReq = s.irqReq := rfl
@[simp] theorem logCmd_irqDone (i : Instr) : (logCmd i s).irqDone = s.irqDone := rfl
@[simp] theorem logCmd_wakeOut (i : Instr) : (logCmd i s).wakeOut = s.wakeOut := rfl
@[simp] theorem logCmd_trace (i : Instr) : (logCmd i s).trace = s.trace ++ [.cmd i] := rfl
@[simp] theorem logCmd_uart (i : Instr) : (logCmd i s).uart = s.uart := rfl
@[simp] theorem logCmd_bus (i : Instr) : (logCmd i s).bus = s.bus := rfl
@[simp] theorem logCmd_woken (i : Instr) : (logCmd i s).woken = s.woken := rfl
@[simp] theorem logCmd_sched (i : Instr) : (logCmd i s).sched = s.sched := rfl
@[simp] theorem logCmd_draws (i : Instr) : (logCmd i s).draws = s.draws := rfl
@[simp] theorem logCmd_mark (i : Instr) : (logCmd i s).mark = s.mark := rfl
@[simp] theorem logCmd_ghost (i : Instr) : (logCmd i s).ghost = s.ghost := rfl

/-! ### placeResponse -/

@[simp] theorem placeResponse_cfg (p : IrqPort) (x : Response) : (placeResponse p x s).cfg = s.cfg := by cases p <;> rfl
@[simp] theorem placeResponse_life (p : IrqPort) (x : Response) : (placeResponse p x s).life = s.life := by cases p <;> rfl
@[simp] theorem placeResponse_base (p : IrqPort) (x : Response) : (placeResponse p x s).base = s.base := by cases p <;> rfl
@[simp] theorem placeResponse_wake (p : IrqPort) (x : Response) : (placeResponse p x s).wake = s.wake := by cases p <;> rfl
@[simp] theorem placeResponse_irqcnt (p : IrqPort) (x : Response) : (placeResponse p x s).irqcnt = s.irqcnt := by cases p <;> rfl
@[simp] theorem placeResponse_buf (p : IrqPort) (x : Response) : (placeResponse p x s).buf = s.buf := by cases p <;> rfl
@[simp] theorem placeResponse_len (p : IrqPort) (x : Response) : (placeResponse p x s).len = s.len := by cases p <;> rfl
@[simp] theorem placeResponse_cur (p : IrqPort) (x : Response) : (placeResponse p x s).cur = s.cur := by cases p <;> rfl
@[simp] theorem placeResponse_opst (p : IrqPort) (x : Response) : (placeResponse p x s).opst = s.opst := by cases p <;> rfl
@[simp] theorem placeResponse_upc (p : IrqPort) (x : Response) : (placeResponse p x s).upc = s.upc := by cases p <;> rfl
@[simp] theorem placeResponse_ipc (p : IrqPort) (x : Response) : (placeResponse p x s).ipc = s.ipc := by cases p <;> rfl
@[simp] theorem placeResponse_scr (p : IrqPort) (x : Response) : (placeResponse p x s).scr = s.scr := by cases p <;> rfl
@[simp] theorem placeResponse_irqPort (p : IrqPort) (x : Response) : (placeResponse p x s).irqPort = s.irqPort := by cases p <;> rfl
@[simp] theorem placeResponse_cmdIn (p : IrqPort) (x : Response) : (placeResponse p x s).cmdIn = s.cmdIn := by cases p <;> rfl
@[simp] theorem placeResponse_irqReq (p : IrqPort) (x : Response) : (placeResponse p x s).irqReq = s.irqReq := by cases p <;> rfl
@[simp] theorem placeResponse_wakeOut (p : IrqPort) (x : Response) : (placeResponse p x s).wakeOut = s.wakeOut := by cases p <;> rfl
@[simp] theorem placeResponse_trace (p : IrqPort) (x : Response) : (placeResponse p x s).trace = s.trace ++ [.rsp p x] := by cases p <;> rfl
@[simp] theorem placeResponse_uart (p : IrqPort) (x : Response) : (placeResponse p x s).uart = s.uart := by cases p <;> rfl
@[simp] theorem placeResponse_bus (p : IrqPort) (x : Response) : (placeResponse p x s).bus = s.bus := by cases p <;> rfl
@[simp] theorem placeResponse_woken (p : IrqPort) (x : Response) : (placeResponse p x s).woken = s.woken := by cases p <;> rfl
@[simp] theorem placeResponse_sched (p : IrqPort) (x : Response) : (placeResponse p x s).sched = s.sched := by cases p <;> rfl
@[simp] theorem placeResponse_draws (p : IrqPort) (x : Response) : (placeResponse p x s).draws = s.draws := by cases p <;> rfl
@[simp] theorem placeResponse_mark (p : IrqPort) (x : Response) : (placeResponse p x s).mark = s.mark := by cases p <;> rfl
@[simp] theorem placeResponse_ghost (p : IrqPort) (x : Response) : (placeResponse p x s).ghost = s.ghost := by cases p <;> rfl

/-! ### respond -/

@[simp] theorem respond_cfg (x : Response) : (respond x s).cfg = s.cfg := rfl
@[simp] theorem respond_life (x : Response) : (respond x s).life = s.life := rfl
@[simp] theorem respond_base (x : Response) : (respond x s).base = s.base := rfl
@[simp] theorem respond_wake (x : Response) : (respond x s).wake = s.wake := rfl
@[simp] theorem respond_irqcnt (x : Response) : (respond x s).irqcnt = s.irqcnt := rfl
@[simp] theorem respond_buf (x : Response) : (respond x s).buf = s.buf := rfl
@[simp] theorem respond_len (x : Response) : (respond x s).len = s.len := rfl
@[simp] theorem respond_cur (x : Response) : (respond x s).cur = s.cur := rfl
@[simp] theorem respond_opst (x : Response) : (respond x s).opst = s.opst := rfl
@[simp] theorem respond_upc (x : Response) : (respond x s).upc = .idle := rfl
@[simp] theorem respond_ipc (x : Response) : (respond x s).ipc = s.ipc := rfl
@[simp] theorem respond_scr (x : Response) : (respond x s).scr = s.scr := rfl
@[simp] theorem respond_irqPort (x : Response) : (respond x s).irqPort = s.irqPort := rfl
@[simp] theorem respond_cmdIn (x : Response) : (respond x s).cmdIn = s.cmdIn := rfl
@[simp] theorem respond_rspOut (x : Response) : (respond x s).rspOut = s.rspOut ++ [x] := rfl
@[simp] theorem respond_irqReq (x : Response) : (respond x s).irqReq = s.irqReq := rfl
@[simp] theorem respond_irqDone (x : Response) : (respond x s).irqDone = s.irqDone := rfl
@[simp] theorem respond_wakeOut (x : Response) : (respond x s).wakeOut = s.wakeOut := rfl
@[simp] theorem respond_trace (x : Response) : (respond x s).trace = s.trace ++ [.rsp .command x] := rfl
@[simp] theorem respond_uart (x : Response) : (respond x s).uart = s.uart := rfl
@[simp] theorem respond_bus (x : Response) : (respond x s).bus = s.bus := rfl
@[simp] theorem respond_woken (x : Response) : (respond x s).woken = s.woken := rfl
@[simp] theorem respond_sched (x : Response) : (respond x s).sched = s.sched := rfl
@[simp] theorem respond_draws (x : Response) : (respond x s).draws = s.draws := rfl
@[simp] theorem respond_mark (x : Response) : (respond x s).mark = s.mark := rfl
@[simp] theorem respond_ghost (x : Response) : (respond x s).ghost = s.ghost := rfl

/-! ### refuse -/

@[simp] theorem refuse_cfg (p : IrqPort) (r : Reason) : (refuse p r s).cfg = s.cfg := by cases p <;> rfl
@[simp] theorem refuse_life (p : IrqPort) (r : Reason) : (refuse p r s).life = s.life := by cases p <;> rfl
@[simp] theorem refuse_base (p : IrqPort) (r : Reason) : (refuse p r s).base = s.base := by cases p <;> rfl
@[simp] theorem refuse_wake (p : IrqPort) (r : Reason) : (refuse p r s).wake = s.wake := by cases p <;> rfl
@[simp] theorem refuse_irqcnt (p : IrqPort) (r : Reason) : (refuse p r s).irqcnt = s.irqcnt := by cases p <;> rfl
@[simp] theorem refuse_buf (p : IrqPort) (r : Reason) : (refuse p r s).buf = s.buf := by cases p <;> rfl
@[simp] theorem refuse_len (p : IrqPort) (r : Reason) : (refuse p r s).len = s.len := by cases p <;> rfl
@[simp] theorem refuse_cur (p : IrqPort) (r : Reason) : (refuse p r s).cur = s.cur := by cases p <;> rfl
@[simp] theorem refuse_opst (p : IrqPort) (r : Reason) : (refuse p r s).opst = s.opst := by cases p <;> rfl
@[simp] theorem refuse_upc (p : IrqPort) (r : Reason) : (refuse p r s).upc = s.upc := by cases p <;> rfl
@[simp] theorem refuse_ipc (p : IrqPort) (r : Reason) : (refuse p r s).ipc = s.ipc := by cases p <;> rfl
@[simp] theorem refuse_scr (p : IrqPort) (r : Reason) : (refuse p r s).scr = s.scr := by cases p <;> rfl
@[simp] theorem refuse_irqPort (p : IrqPort) (r : Reason) : (refuse p r s).irqPort = s.irqPort := by cases p <;> rfl
@[simp] theorem refuse_cmdIn (p : IrqPort) (r : Reason) : (refuse p r s).cmdIn = s.cmdIn := by cases p <;> rfl
@[simp] theorem refuse_irqReq (p : IrqPort) (r : Reason) : (refuse p r s).irqReq = s.irqReq := by cases p <;> rfl
@[simp] theorem refuse_wakeOut (p : IrqPort) (r : Reason) : (refuse p r s).wakeOut = s.wakeOut := by cases p <;> rfl
@[simp] theorem refuse_trace (p : IrqPort) (r : Reason) : (refuse p r s).trace = s.trace ++ [.rsp p (.refused r)] := by cases p <;> rfl
@[simp] theorem refuse_uart (p : IrqPort) (r : Reason) : (refuse p r s).uart = s.uart := by cases p <;> rfl
@[simp] theorem refuse_bus (p : IrqPort) (r : Reason) : (refuse p r s).bus = s.bus := by cases p <;> rfl
@[simp] theorem refuse_woken (p : IrqPort) (r : Reason) : (refuse p r s).woken = s.woken := by cases p <;> rfl
@[simp] theorem refuse_sched (p : IrqPort) (r : Reason) : (refuse p r s).sched = s.sched := by cases p <;> rfl
@[simp] theorem refuse_draws (p : IrqPort) (r : Reason) : (refuse p r s).draws = s.draws := by cases p <;> rfl
@[simp] theorem refuse_mark (p : IrqPort) (r : Reason) : (refuse p r s).mark = true := by cases p <;> rfl
@[simp] theorem refuse_ghost (p : IrqPort) (r : Reason) : (refuse p r s).ghost = s.ghost := by cases p <;> rfl

/-! ### raiseNullBase -/

@[simp] theorem raiseNullBase_cfg : (raiseNullBase s).cfg = s.cfg := rfl
@[simp] theorem raiseNullBase_life : (raiseNullBase s).life = .halted := rfl
@[simp] theorem raiseNullBase_base : (raiseNullBase s).base = s.base := rfl
@[simp] theorem raiseNullBase_wake : (raiseNullBase s).wake = s.wake := rfl
@[simp] theorem raiseNullBase_irqcnt : (raiseNullBase s).irqcnt = s.irqcnt := rfl
@[simp] theorem raiseNullBase_buf : (raiseNullBase s).buf = s.buf := rfl
@[simp] theorem raiseNullBase_len : (raiseNullBase s).len = s.len := rfl
@[simp] theorem raiseNullBase_cur : (raiseNullBase s).cur = s.cur := rfl
@[simp] theorem raiseNullBase_opst : (raiseNullBase s).opst = s.opst := rfl
@[simp] theorem raiseNullBase_upc : (raiseNullBase s).upc = .idle := rfl
@[simp] theorem raiseNullBase_ipc : (raiseNullBase s).ipc = s.ipc := rfl
@[simp] theorem raiseNullBase_scr : (raiseNullBase s).scr = s.scr := rfl
@[simp] theorem raiseNullBase_irqPort : (raiseNullBase s).irqPort = s.irqPort := rfl
@[simp] theorem raiseNullBase_cmdIn : (raiseNullBase s).cmdIn = s.cmdIn := rfl
@[simp] theorem raiseNullBase_rspOut : (raiseNullBase s).rspOut = s.rspOut ++ [.fatal nullBaseCode] := rfl
@[simp] theorem raiseNullBase_irqReq : (raiseNullBase s).irqReq = s.irqReq := rfl
@[simp] theorem raiseNullBase_irqDone : (raiseNullBase s).irqDone = s.irqDone := rfl
@[simp] theorem raiseNullBase_wakeOut : (raiseNullBase s).wakeOut = s.wakeOut := rfl
@[simp] theorem raiseNullBase_trace : (raiseNullBase s).trace = s.trace ++ [.rsp .command (.fatal nullBaseCode)] := rfl
@[simp] theorem raiseNullBase_uart : (raiseNullBase s).uart = s.uart := rfl
@[simp] theorem raiseNullBase_bus : (raiseNullBase s).bus = s.bus := rfl
@[simp] theorem raiseNullBase_woken : (raiseNullBase s).woken = s.woken := rfl
@[simp] theorem raiseNullBase_sched : (raiseNullBase s).sched = s.sched := rfl
@[simp] theorem raiseNullBase_draws : (raiseNullBase s).draws = s.draws := rfl
@[simp] theorem raiseNullBase_mark : (raiseNullBase s).mark = s.mark := rfl
@[simp] theorem raiseNullBase_ghost : (raiseNullBase s).ghost = s.ghost := rfl

/-! ### takeIrq -/

@[simp] theorem takeIrq_cfg (p : IrqPort) : (takeIrq p s).cfg = s.cfg := rfl
@[simp] theorem takeIrq_life (p : IrqPort) : (takeIrq p s).life = s.life := rfl
@[simp] theorem takeIrq_base (p : IrqPort) : (takeIrq p s).base = s.base := rfl
@[simp] theorem takeIrq_wake (p : IrqPort) : (takeIrq p s).wake = s.wake := rfl
@[simp] theorem takeIrq_irqcnt (p : IrqPort) : (takeIrq p s).irqcnt = s.irqcnt := rfl
@[simp] theorem takeIrq_buf (p : IrqPort) : (takeIrq p s).buf = s.buf := rfl
@[simp] theorem takeIrq_len (p : IrqPort) : (takeIrq p s).len = s.len := rfl
@[simp] theorem takeIrq_cur (p : IrqPort) : (takeIrq p s).cur = s.cur := rfl
@[simp] theorem takeIrq_opst (p : IrqPort) : (takeIrq p s).opst = s.opst := rfl
@[simp] theorem takeIrq_upc (p : IrqPort) : (takeIrq p s).upc = s.upc := rfl
@[simp] theorem takeIrq_ipc (p : IrqPort) : (takeIrq p s).ipc = .h1 := rfl
@[simp] theorem takeIrq_scr (p : IrqPort) : (takeIrq p s).scr = s.scr := rfl
@[simp] theorem takeIrq_irqPort (p : IrqPort) : (takeIrq p s).irqPort = p := rfl
@[simp] theorem takeIrq_cmdIn (p : IrqPort) : (takeIrq p s).cmdIn = s.cmdIn := rfl
@[simp] theorem takeIrq_rspOut (p : IrqPort) : (takeIrq p s).rspOut = s.rspOut := rfl
@[simp] theorem takeIrq_irqReq (p : IrqPort) : (takeIrq p s).irqReq = s.irqReq := rfl
@[simp] theorem takeIrq_irqDone (p : IrqPort) : (takeIrq p s).irqDone = s.irqDone := rfl
@[simp] theorem takeIrq_wakeOut (p : IrqPort) : (takeIrq p s).wakeOut = s.wakeOut := rfl
@[simp] theorem takeIrq_trace (p : IrqPort) : (takeIrq p s).trace = s.trace := rfl
@[simp] theorem takeIrq_uart (p : IrqPort) : (takeIrq p s).uart = s.uart := rfl
@[simp] theorem takeIrq_bus (p : IrqPort) : (takeIrq p s).bus = s.bus := rfl
@[simp] theorem takeIrq_woken (p : IrqPort) : (takeIrq p s).woken = s.woken := rfl
@[simp] theorem takeIrq_sched (p : IrqPort) : (takeIrq p s).sched = s.sched := rfl
@[simp] theorem takeIrq_draws (p : IrqPort) : (takeIrq p s).draws = s.draws := rfl
@[simp] theorem takeIrq_mark (p : IrqPort) : (takeIrq p s).mark = s.mark := rfl
@[simp] theorem takeIrq_ghost (p : IrqPort) : (takeIrq p s).ghost = s.ghost := rfl

/-! ### returnIrq -/

@[simp] theorem returnIrq_cfg : (returnIrq s).cfg = s.cfg := placeResponse_cfg s s.irqPort .ok
@[simp] theorem returnIrq_life : (returnIrq s).life = s.life := placeResponse_life s s.irqPort .ok
@[simp] theorem returnIrq_base : (returnIrq s).base = s.base := placeResponse_base s s.irqPort .ok
@[simp] theorem returnIrq_wake : (returnIrq s).wake = s.wake := placeResponse_wake s s.irqPort .ok
@[simp] theorem returnIrq_irqcnt : (returnIrq s).irqcnt = s.irqcnt := placeResponse_irqcnt s s.irqPort .ok
@[simp] theorem returnIrq_buf : (returnIrq s).buf = s.buf := placeResponse_buf s s.irqPort .ok
@[simp] theorem returnIrq_len : (returnIrq s).len = s.len := placeResponse_len s s.irqPort .ok
@[simp] theorem returnIrq_cur : (returnIrq s).cur = s.cur := placeResponse_cur s s.irqPort .ok
@[simp] theorem returnIrq_opst : (returnIrq s).opst = s.opst := placeResponse_opst s s.irqPort .ok
@[simp] theorem returnIrq_upc : (returnIrq s).upc = s.upc := placeResponse_upc s s.irqPort .ok
@[simp] theorem returnIrq_ipc : (returnIrq s).ipc = .idle := rfl
@[simp] theorem returnIrq_scr : (returnIrq s).scr = s.scr := placeResponse_scr s s.irqPort .ok
@[simp] theorem returnIrq_irqPort : (returnIrq s).irqPort = s.irqPort := placeResponse_irqPort s s.irqPort .ok
@[simp] theorem returnIrq_cmdIn : (returnIrq s).cmdIn = s.cmdIn := placeResponse_cmdIn s s.irqPort .ok
@[simp] theorem returnIrq_irqReq : (returnIrq s).irqReq = s.irqReq := placeResponse_irqReq s s.irqPort .ok
@[simp] theorem returnIrq_wakeOut : (returnIrq s).wakeOut = s.wakeOut := placeResponse_wakeOut s s.irqPort .ok
@[simp] theorem returnIrq_trace : (returnIrq s).trace = s.trace ++ [.rsp s.irqPort .ok] := placeResponse_trace s s.irqPort .ok
@[simp] theorem returnIrq_uart : (returnIrq s).uart = s.uart := placeResponse_uart s s.irqPort .ok
@[simp] theorem returnIrq_bus : (returnIrq s).bus = s.bus := placeResponse_bus s s.irqPort .ok
@[simp] theorem returnIrq_woken : (returnIrq s).woken = s.woken := placeResponse_woken s s.irqPort .ok
@[simp] theorem returnIrq_sched : (returnIrq s).sched = s.sched := placeResponse_sched s s.irqPort .ok
@[simp] theorem returnIrq_draws : (returnIrq s).draws = s.draws := placeResponse_draws s s.irqPort .ok
@[simp] theorem returnIrq_mark : (returnIrq s).mark = s.mark := placeResponse_mark s s.irqPort .ok
@[simp] theorem returnIrq_ghost : (returnIrq s).ghost = { s.ghost with irqsDone := s.ghost.irqsDone + 1 } := rfl

/-! ### registerWake -/

@[simp] theorem registerWake_cfg (h : Nat) : (registerWake h s).cfg = s.cfg := rfl
@[simp] theorem registerWake_life (h : Nat) : (registerWake h s).life = s.life := rfl
@[simp] theorem registerWake_base (h : Nat) : (registerWake h s).base = s.base := rfl
@[simp] theorem registerWake_wake (h : Nat) : (registerWake h s).wake = some h := rfl
@[simp] theorem registerWake_irqcnt (h : Nat) : (registerWake h s).irqcnt = s.irqcnt := rfl
@[simp] theorem registerWake_buf (h : Nat) : (registerWake h s).buf = s.buf := rfl
@[simp] theorem registerWake_len (h : Nat) : (registerWake h s).len = s.len := rfl
@[simp] theorem registerWake_cur (h : Nat) : (registerWake h s).cur = s.cur := rfl
@[simp] theorem registerWake_opst (h : Nat) : (registerWake h s).opst = s.opst := rfl
@[simp] theorem registerWake_upc (h : Nat) : (registerWake h s).upc = s.upc := rfl
@[simp] theorem registerWake_ipc (h : Nat) : (registerWake h s).ipc = s.ipc := rfl
@[simp] theorem registerWake_scr (h : Nat) : (registerWake h s).scr = s.scr := rfl
@[simp] theorem registerWake_irqPort (h : Nat) : (registerWake h s).irqPort = s.irqPort := rfl
@[simp] theorem registerWake_cmdIn (h : Nat) : (registerWake h s).cmdIn = s.cmdIn := rfl
@[simp] theorem registerWake_rspOut (h : Nat) : (registerWake h s).rspOut = s.rspOut := rfl
@[simp] theorem registerWake_irqReq (h : Nat) : (registerWake h s).irqReq = s.irqReq := rfl
@[simp] theorem registerWake_irqDone (h : Nat) : (registerWake h s).irqDone = s.irqDone := rfl
@[simp] theorem registerWake_wakeOut (h : Nat) : (registerWake h s).wakeOut = s.wakeOut := rfl
@[simp] theorem registerWake_trace (h : Nat) : (registerWake h s).trace = s.trace := rfl
@[simp] theorem registerWake_uart (h : Nat) : (registerWake h s).uart = s.uart := rfl
@[simp] theorem registerWake_bus (h : Nat) : (registerWake h s).bus = s.bus := rfl
@[simp] theorem registerWake_woken (h : Nat) : (registerWake h s).woken = s.woken := rfl
@[simp] theorem registerWake_sched (h : Nat) : (registerWake h s).sched = s.sched := rfl
@[simp] theorem registerWake_draws (h : Nat) : (registerWake h s).draws = s.draws := rfl
@[simp] theorem registerWake_mark (h : Nat) : (registerWake h s).mark = s.mark := rfl
@[simp] theorem registerWake_ghost (h : Nat) : (registerWake h s).ghost = s.ghost := rfl

/-! ### countIrq -/

@[simp] theorem countIrq_cfg : (countIrq s).cfg = s.cfg := rfl
@[simp] theorem countIrq_life : (countIrq s).life = s.life := rfl
@[simp] theorem countIrq_base : (countIrq s).base = s.base := rfl
@[simp] theorem countIrq_wake : (countIrq s).wake = s.wake := rfl
@[simp] theorem countIrq_irqcnt : (countIrq s).irqcnt = s.irqcnt + 1 := rfl
@[simp] theorem countIrq_buf : (countIrq s).buf = s.buf := rfl
@[simp] theorem countIrq_len : (countIrq s).len = s.len := rfl
@[simp] theorem countIrq_cur : (countIrq s).cur = s.cur := rfl
@[simp] theorem countIrq_opst : (countIrq s).opst = s.opst := rfl
@[simp] theorem countIrq_upc : (countIrq s).upc = s.upc := rfl
@[simp] theorem countIrq_ipc : (countIrq s).ipc = s.ipc := rfl
@[simp] theorem countIrq_scr : (countIrq s).scr = s.scr := rfl
@[simp] theorem countIrq_irqPort : (countIrq s).irqPort = s.irqPort := rfl
@[simp] theorem countIrq_cmdIn : (countIrq s).cmdIn = s.cmdIn := rfl
@[simp] theorem countIrq_rspOut : (countIrq s).rspOut = s.rspOut := rfl
@[simp] theorem countIrq_irqReq : (countIrq s).irqReq = s.irqReq := rfl
@[simp] theorem countIrq_irqDone : (countIrq s).irqDone = s.irqDone := rfl
@[simp] theorem countIrq_wakeOut : (countIrq s).wakeOut = s.wakeOut := rfl
@[simp] theorem countIrq_trace : (countIrq s).trace = s.trace := rfl
@[simp] theorem countIrq_uart : (countIrq s).uart = s.uart := rfl
@[simp] theorem countIrq_bus : (countIrq s).bus = s.bus := rfl
@[simp] theorem countIrq_woken : (countIrq s).woken = s.woken := rfl
@[simp] theorem countIrq_sched : (countIrq s).sched = s.sched := rfl
@[simp] theorem countIrq_draws : (countIrq s).draws = s.draws := rfl
@[simp] theorem countIrq_mark : (countIrq s).mark = s.mark := rfl
@[simp] theorem countIrq_ghost : (countIrq s).ghost = s.ghost := rfl

/-! ### emitWake -/

@[simp] theorem emitWake_cfg (h : Nat) : (emitWake h s).cfg = s.cfg := rfl
@[simp] theorem emitWake_life (h : Nat) : (emitWake h s).life = s.life := rfl
@[simp] theorem emitWake_base (h : Nat) : (emitWake h s).base = s.base := rfl
@[simp] theorem emitWake_wake (h : Nat) : (emitWake h s).wake = s.wake := rfl
@[simp] theorem emitWake_irqcnt (h : Nat) : (emitWake h s).irqcnt = s.irqcnt := rfl
@[simp] theorem emitWake_buf (h : Nat) : (emitWake h s).buf = s.buf := rfl
@[simp] theorem emitWake_len (h : Nat) : (emitWake h s).len = s.len := rfl
@[simp] theorem emitWake_cur (h : Nat) : (emitWake h s).cur = s.cur := rfl
@[simp] theorem emitWake_opst (h : Nat) : (emitWake h s).opst = s.opst := rfl
@[simp] theorem emitWake_upc (h : Nat) : (emitWake h s).upc = s.upc := rfl
@[simp] theorem emitWake_ipc (h : Nat) : (emitWake h s).ipc = s.ipc := rfl
@[simp] theorem emitWake_scr (h : Nat) : (emitWake h s).scr = s.scr := rfl
@[simp] theorem emitWake_irqPort (h : Nat) : (emitWake h s).irqPort = s.irqPort := rfl
@[simp] theorem emitWake_cmdIn (h : Nat) : (emitWake h s).cmdIn = s.cmdIn := rfl
@[simp] theorem emitWake_rspOut (h : Nat) : (emitWake h s).rspOut = s.rspOut := rfl
@[simp] theorem emitWake_irqReq (h : Nat) : (emitWake h s).irqReq = s.irqReq := rfl
@[simp] theorem emitWake_irqDone (h : Nat) : (emitWake h s).irqDone = s.irqDone := rfl
@[simp] theorem emitWake_wakeOut (h : Nat) : (emitWake h s).wakeOut = s.wakeOut ++ [h] := rfl
@[simp] theorem emitWake_trace (h : Nat) : (emitWake h s).trace = s.trace ++ [.wakeOut h] := rfl
@[simp] theorem emitWake_uart (h : Nat) : (emitWake h s).uart = s.uart := rfl
@[simp] theorem emitWake_bus (h : Nat) : (emitWake h s).bus = s.bus := rfl
@[simp] theorem emitWake_woken (h : Nat) : (emitWake h s).woken = if h ∈ s.woken then s.woken else s.woken ++ [h] := rfl
@[simp] theorem emitWake_sched (h : Nat) : (emitWake h s).sched = s.sched := rfl
@[simp] theorem emitWake_draws (h : Nat) : (emitWake h s).draws = s.draws := rfl
@[simp] theorem emitWake_mark (h : Nat) : (emitWake h s).mark = s.mark := rfl
@[simp] theorem emitWake_ghost (h : Nat) : (emitWake h s).ghost = s.ghost := rfl

/-! ### fireWake -/

@[simp] theorem fireWake_cfg : (fireWake s).cfg = s.cfg := by unfold fireWake; split <;> rfl
@[simp] theorem fireWake_life : (fireWake s).life = s.life := by unfold fireWake; split <;> rfl
@[simp] theorem fireWake_base : (fireWake s).base = s.base := by unfold fireWake; split <;> rfl
@[simp] theorem fireWake_irqcnt : (fireWake s).irqcnt = s.irqcnt := by unfold fireWake; split <;> rfl
@[simp] theorem fireWake_buf : (fireWake s).buf = s.buf := by unfold fireWake; split <;> rfl
@[simp] theorem fireWake_len : (fireWake s).len = s.len := by unfold fireWake; split <;> rfl
@[simp] theorem fireWake_cur : (fireWake s).cur = s.cur := by unfold fireWake; split <;> rfl
@[simp] theorem fireWake_opst : (fireWake s).opst = s.opst := by unfold fireWake; split <;> rfl
@[simp] theorem fireWake_upc : (fireWake s).upc = s.upc := by unfold fireWake; split <;> rfl
@[simp] theorem fireWake_ipc : (fireWake s).ipc = s.ipc := by unfold fireWake; split <;> rfl
@[simp] theorem fireWake_scr : (fireWake s).scr = s.scr := by unfold fireWake; split <;> rfl
@[simp] theorem fireWake_irqPort : (fireWake s).irqPort = s.irqPort := by unfold fireWake; split <;> rfl
@[simp] theorem fireWake_cmdIn : (fireWake s).cmdIn = s.cmdIn := by unfold fireWake; split <;> rfl
@[simp] theorem fireWake_rspOut : (fireWake s).rspOut = s.rspOut := by unfold fireWake; split <;> rfl
@[simp] theorem fireWake_irqReq : (fireWake s).irqReq = s.irqReq := by unfold fireWake; split <;> rfl
@[simp] theorem fireWake_irqDone : (fireWake s).irqDone = s.irqDone := by unfold fireWake; split <;> rfl
@[simp] theorem fireWake_uart : (fireWake s).uart = s.uart := by unfold fireWake; split <;> rfl
@[simp] theorem fireWake_bus : (fireWake s).bus = s.bus := by unfold fireWake; split <;> rfl
@[simp] theorem fireWake_sched : (fireWake s).sched = s.sched := by unfold fireWake; split <;> rfl
@[simp] theorem fireWake_draws : (fireWake s).draws = s.draws := by unfold fireWake; split <;> rfl
@[simp] theorem fireWake_mark : (fireWake s).mark = s.mark := by unfold fireWake; split <;> rfl
@[simp] theorem fireWake_ghost : (fireWake s).ghost = s.ghost := by unfold fireWake; split <;> rfl

/-! ### takeWoken -/

@[simp] theorem takeWoken_cfg (h : Nat) : (takeWoken h s).cfg = s.cfg := rfl
@[simp] theorem takeWoken_life (h : Nat) : (takeWoken h s).life = s.life := rfl
@[simp] theorem takeWoken_base (h : Nat) : (takeWoken h s).base = s.base := rfl
@[simp] theorem takeWoken_wake (h : Nat) : (takeWoken h s).wake = s.wake := rfl
@[simp] theorem takeWoken_irqcnt (h : Nat) : (takeWoken h s).irqcnt = s.irqcnt := rfl
@[simp] theorem takeWoken_buf (h : Nat) : (takeWoken h s).buf = s.buf := rfl
@[simp] theorem takeWoken_len (h : Nat) : (takeWoken h s).len = s.len := rfl
@[simp] theorem takeWoken_cur (h : Nat) : (takeWoken h s).cur = s.cur := rfl
@[simp] theorem takeWoken_opst (h : Nat) : (takeWoken h s).opst = s.opst := rfl
@[simp] theorem takeWoken_upc (h : Nat) : (takeWoken h s).upc = s.upc := rfl
@[simp] theorem takeWoken_ipc (h : Nat) : (takeWoken h s).ipc = s.ipc := rfl
@[simp] theorem takeWoken_scr (h : Nat) : (takeWoken h s).scr = s.scr := rfl
@[simp] theorem takeWoken_irqPort (h : Nat) : (takeWoken h s).irqPort = s.irqPort := rfl
@[simp] theorem takeWoken_cmdIn (h : Nat) : (takeWoken h s).cmdIn = s.cmdIn := rfl
@[simp] theorem takeWoken_rspOut (h : Nat) : (takeWoken h s).rspOut = s.rspOut := rfl
@[simp] theorem takeWoken_irqReq (h : Nat) : (takeWoken h s).irqReq = s.irqReq := rfl
@[simp] theorem takeWoken_irqDone (h : Nat) : (takeWoken h s).irqDone = s.irqDone := rfl
@[simp] theorem takeWoken_wakeOut (h : Nat) : (takeWoken h s).wakeOut = s.wakeOut := rfl
@[simp] theorem takeWoken_trace (h : Nat) : (takeWoken h s).trace = s.trace := rfl
@[simp] theorem takeWoken_uart (h : Nat) : (takeWoken h s).uart = s.uart := rfl
@[simp] theorem takeWoken_bus (h : Nat) : (takeWoken h s).bus = s.bus := rfl
@[simp] theorem takeWoken_woken (h : Nat) : (takeWoken h s).woken = s.woken.filter (fun x => decide (x ≠ h)) := rfl
@[simp] theorem takeWoken_sched (h : Nat) : (takeWoken h s).sched = s.sched := rfl
@[simp] theorem takeWoken_draws (h : Nat) : (takeWoken h s).draws = s.draws := rfl
@[simp] theorem takeWoken_mark (h : Nat) : (takeWoken h s).mark = s.mark := rfl
@[simp] theorem takeWoken_ghost (h : Nat) : (takeWoken h s).ghost = s.ghost := rfl

/-! ### The fields that depend on the port, the kind of access or the cell -/

@[simp] theorem placeResponse_rspOut (p : IrqPort) (x : Response) :
    (placeResponse p x s).rspOut = if p = .command then s.rspOut ++ [x] else s.rspOut := by cases p <;> rfl

@[simp] theorem placeResponse_irqDone (p : IrqPort) (x : Response) :
    (placeResponse p x s).irqDone = if p = .request then s.irqDone ++ [x] else s.irqDone := by cases p <;> rfl

@[simp] theorem refuse_rspOut (p : IrqPort) (r : Reason) :
    (refuse p r s).rspOut = if p = .command then s.rspOut ++ [.refused r] else s.rspOut := by cases p <;> rfl

@[simp] theorem refuse_irqDone (p : IrqPort) (r : Reason) :
    (refuse p r s).irqDone = if p = .request then s.irqDone ++ [.refused r] else s.irqDone := by cases p <;> rfl

@[simp] theorem returnIrq_rspOut :
    (returnIrq s).rspOut = if s.irqPort = .command then s.rspOut ++ [.ok] else s.rspOut := by
  exact placeResponse_rspOut s s.irqPort .ok

@[simp] theorem returnIrq_irqDone :
    (returnIrq s).irqDone = if s.irqPort = .request then s.irqDone ++ [.ok] else s.irqDone := by
  exact placeResponse_irqDone s s.irqPort .ok

@[simp] theorem otherAccess_read_uart (r : Reg) :
    (otherAccess r .read s).uart = uartAfterRead s.uart r := rfl

@[simp] theorem otherAccess_write_uart (r : Reg) (v : Word) :
    (otherAccess r (.write v) s).uart = uartAfterWrite s.uart v r := rfl

@[simp] theorem otherAccess_read_draws (r : Reg) : (otherAccess r .read s).draws = s.draws + 1 := rfl

@[simp] theorem otherAccess_write_draws (r : Reg) (v : Word) :
    (otherAccess r (.write v) s).draws = s.draws := rfl

@[simp] theorem otherAccess_read_trace (r : Reg) :
    (otherAccess r .read s).trace = s.trace ++ [.otherRead r (answer s r)] := rfl

@[simp] theorem otherAccess_write_trace (r : Reg) (v : Word) :
    (otherAccess r (.write v) s).trace = s.trace ++ [.otherWrite r v] := rfl

theorem fireWake_none (h : s.wake = none) : fireWake s = s := by unfold fireWake; rw [h]

theorem fireWake_some {w : Nat} (h : s.wake = some w) :
    fireWake s = { emitWake w s with wake := if s.cfg.wakeFireClears then none else some w } := by
  unfold fireWake; rw [h]

/-! ### andThen -/

@[simp] theorem andThen_next (k : State → Out) : andThen (.next s) k = k s := rfl

@[simp] theorem andThen_fault (r : Fault) (k : State → Out) : andThen (.fault r) k = .fault r := rfl

@[simp] theorem andThen_refused (r : Refusal) (k : State → Out) : andThen (.refused r) k = .refused r := rfl

/-- What is known when a chain answers a next state: both parts did. -/
theorem andThen_eq_next {o : Out} {k : State → Out} {t : State} (h : andThen o k = .next t) :
    ∃ u, o = .next u ∧ k u = .next t := by
  cases o with
  | next u => exact ⟨u, rfl, h⟩
  | fault r => cases h
  | refused r => cases h

end Sys2Proof.Machine
end

