-- ==== Sys2Proof/Laws/Ops.lean ====
section
/-! SUPPORT. What the shared operations do, said once: an access under the launch premises and without them, the
peripheral's answers, the admission checks. -/

namespace Sys2Proof.Machine

/-! ### Accesses of the block -/

/-- Under the launch premises no access is refused (R71, R75 of 20_memory.md). -/
theorem accessRefusal_of_launch {s : State} (h : Launch s) : accessRefusal s = none := by
  obtain ⟨h1, h2⟩ := h
  unfold accessRefusal
  rw [if_neg (by omega), if_neg (by omega)]

/-- An access that is not refused has the launch premises. -/
theorem launch_of_accessRefusal {s : State} (h : accessRefusal s = none) : Launch s := by
  unfold accessRefusal at h
  split at h
  · cases h
  · split at h
    · cases h
    · exact ⟨by omega, by omega⟩

theorem accessRefusal_eq_none {s : State} : accessRefusal s = none ↔ Launch s :=
  ⟨launch_of_accessRefusal, accessRefusal_of_launch⟩

theorem regRead_of_launch {s : State} (r : Reg) (k : Word → State → Out) (h : Launch s) :
    regRead r s k = k (answer s r) (afterRead s r) := by
  simp only [regRead, accessRefusal_of_launch h]

theorem regWrite_of_launch {s : State} (r : Reg) (v : Word) (k : State → Out) (h : Launch s) :
    regWrite r v s k = k (afterWrite s r v) := by
  simp only [regWrite, accessRefusal_of_launch h]

/-- A read that answers a next state was made under the launch premises. -/
theorem regRead_eq_next {s t : State} {r : Reg} {k : Word → State → Out} (h : regRead r s k = .next t) :
    Launch s ∧ k (answer s r) (afterRead s r) = .next t := by
  unfold regRead at h
  split at h
  · cases h
  · rename_i hn
    exact ⟨launch_of_accessRefusal hn, h⟩

/-- A write that answers a next state was made under the launch premises. -/
theorem regWrite_eq_next {s t : State} {r : Reg} {v : Word} {k : State → Out} (h : regWrite r v s k = .next t) :
    Launch s ∧ k (afterWrite s r v) = .next t := by
  unfold regWrite at h
  split at h
  · cases h
  · rename_i hn
    exact ⟨launch_of_accessRefusal hn, h⟩

/-- The launch premises depend on BASE and AW only. -/
theorem launch_congr {s u : State} (hb : u.base = s.base) (hc : u.cfg = s.cfg) (h : Launch s) : Launch u := by
  simpa [Launch, hb, hc] using h

/-! ### The peripheral -/

/-- What a read answers depends on the peripheral and the counter of free values only. -/
theorem answer_congr {s u : State} (r : Reg) (hu : u.uart = s.uart) (hd : u.draws = s.draws) :
    answer u r = answer s r := by
  simp only [answer, hu, hd]

/-- MIS is RIS and IMSC, bit by bit, whoever reads it (R88). -/
@[simp] theorem answer_mis (s : State) : answer s .mis = s.uart.ris &&& s.uart.imsc := rfl
@[simp] theorem answer_ris (s : State) : answer s .ris = s.uart.ris := rfl
@[simp] theorem answer_imsc (s : State) : answer s .imsc = s.uart.imsc := rfl

/-- The implemented sources are the bits below N_IRQ. -/
theorem sourceBits_getLsbD {c : Config} {j : Nat} (hn : c.nIrq ≤ 32) (hj : j < c.nIrq) :
    c.sourceBits.getLsbD j = true := by
  rw [Config.sourceBits, BitVec.getLsbD_ofNat, Nat.testBit_two_pow_sub_one]
  simp [hj]
  omega

@[simp] theorem uartAfterRead_mode (u : Uart) (r : Reg) : (uartAfterRead u r).mode = u.mode := by cases r <;> rfl
@[simp] theorem uartAfterRead_txlog (u : Uart) (r : Reg) : (uartAfterRead u r).txlog = u.txlog := by cases r <;> rfl
@[simp] theorem uartAfterRead_ris (u : Uart) (r : Reg) : (uartAfterRead u r).ris = u.ris := by cases r <;> rfl
@[simp] theorem uartAfterRead_imsc (u : Uart) (r : Reg) : (uartAfterRead u r).imsc = u.imsc := by cases r <;> rfl
@[simp] theorem uartAfterRead_ibrd (u : Uart) (r : Reg) : (uartAfterRead u r).ibrd = u.ibrd := by cases r <;> rfl
@[simp] theorem uartAfterRead_fbrd (u : Uart) (r : Reg) : (uartAfterRead u r).fbrd = u.fbrd := by cases r <;> rfl
@[simp] theorem uartAfterRead_lcrh (u : Uart) (r : Reg) : (uartAfterRead u r).lcrh = u.lcrh := by cases r <;> rfl
@[simp] theorem uartAfterRead_cr (u : Uart) (r : Reg) : (uartAfterRead u r).cr = u.cr := by cases r <;> rfl
@[simp] theorem uartAfterRead_ifls (u : Uart) (r : Reg) : (uartAfterRead u r).ifls = u.ifls := by cases r <;> rfl
@[simp] theorem uartAfterRead_icr (u : Uart) (r : Reg) : (uartAfterRead u r).icr = u.icr := by cases r <;> rfl

@[simp] theorem uartAfterWrite_mode (u : Uart) (v : Word) (r : Reg) : (uartAfterWrite u v r).mode = u.mode := by
  cases r <;> rfl
@[simp] theorem uartAfterWrite_frq (u : Uart) (v : Word) (r : Reg) : (uartAfterWrite u v r).frq = u.frq := by
  cases r <;> rfl
@[simp] theorem uartAfterWrite_rxq (u : Uart) (v : Word) (r : Reg) : (uartAfterWrite u v r).rxq = u.rxq := by
  cases r <;> rfl

/-- FR answers the head of the answers the state holds. -/
theorem answer_fr_cons {s : State} {f : Word} {rest : List Word} (h : s.uart.frq = f :: rest) : answer s .fr = f := by
  simp [answer, uartAnswer, h]

/-- DR answers the oldest word not yet read (R90). -/
theorem answer_dr_cons {s : State} {d : Word} {rest : List Word} (h : s.uart.rxq = d :: rest) : answer s .dr = d := by
  simp [answer, uartAnswer, h]

/-- One FR answer is used up while another follows it. -/
theorem frqAfterRead_cons_cons (mode : UartMode) (f g : Word) (rest : List Word) :
    frqAfterRead mode (f :: g :: rest) = g :: rest := rfl

/-! ### Admission (R233 of 60_exceptions.md) -/

theorem needDriver_eq_none {s : State} : needDriver s = none ↔ DriverFree s := by
  unfold needDriver DriverFree
  cases s.life <;> simp

theorem needOperation_eq_none {s : State} : needOperation s = none ↔ OperationAlive s := by
  unfold needOperation OperationAlive
  cases s.life <;> simp

theorem needReady_eq_none {s : State} : needReady s = none ↔ s.life = .ready := by
  unfold needReady
  cases s.life <;> simp

theorem needReset_eq_none {s : State} : needReset s = none ↔ s.life = .reset := by
  unfold needReset
  cases s.life <;> simp

end Sys2Proof.Machine
end

