-- ==== Sys2Proof/Laws/PerInstr.lean ====
section
/-! SUPPORT. The per-instruction family Format: the code of every instruction has the shape its format gives it
(R112 to R117 of 30_encoding.md; R44 of 10_state.md, R124 of 30_encoding.md). -/

namespace Sys2Proof.Laws.Format

/-- A command's code is its opcode byte and as many operand bytes as its format fixes. -/
def CommandShape (i : Instr) (op : Byte) (operand : Config → Nat) : Prop :=
  ∀ c : Config, ∃ bytes, encode c i = .command (op :: bytes) ∧ bytes.length = operand c

/-- A register row's code is a transaction at the row's offset. -/
def RegisterShape (i : Instr) (off : BitVec 12) : Prop :=
  ∀ c : Config, ∃ t : Txn, encode c i = .transaction t ∧ t.off = off

/-- The shape of each instruction's code. -/
def Statement : Instr → Prop
  | .construct base => CommandShape (.construct base) 0x00 (fun c => c.aw / 8)
  | .init => CommandShape .init 0x01 (fun _ => 0)
  | .putc b => CommandShape (.putc b) 0x02 (fun _ => 1)
  | .getc => CommandShape .getc 0x03 (fun _ => 0)
  | .rxpend => CommandShape .rxpend 0x04 (fun _ => 0)
  | .ack => CommandShape .ack 0x05 (fun _ => 0)
  | .irq => CommandShape .irq 0x06 (fun _ => 0)
  | .beginWrite bytes => CommandShape (.beginWrite bytes) 0x07 (fun c => c.lenw / 8 + bytes.length)
  | .drive h => CommandShape (.drive h) 0x08 (fun c => c.hw / 8)
  | .drop => CommandShape .drop 0x09 (fun _ => 0)
  | .dr a => RegisterShape (.dr a) 0x000
  | .fr => RegisterShape .fr 0x018
  | .ibrd a => RegisterShape (.ibrd a) 0x024
  | .fbrd a => RegisterShape (.fbrd a) 0x028
  | .lcrh a => RegisterShape (.lcrh a) 0x02c
  | .cr a => RegisterShape (.cr a) 0x030
  | .ifls a => RegisterShape (.ifls a) 0x034
  | .imsc a => RegisterShape (.imsc a) 0x038
  | .ris => RegisterShape .ris 0x03c
  | .mis => RegisterShape .mis 0x040
  | .icr a => RegisterShape (.icr a) 0x044

theorem construct (base : Nat) : Statement (.construct base) := fun _ => ⟨_, rfl, by simp⟩
theorem init : Statement .init := fun _ => ⟨_, rfl, rfl⟩
theorem putc (b : Byte) : Statement (.putc b) := fun _ => ⟨_, rfl, rfl⟩
theorem getc : Statement .getc := fun _ => ⟨_, rfl, rfl⟩
theorem rxpend : Statement .rxpend := fun _ => ⟨_, rfl, rfl⟩
theorem ack : Statement .ack := fun _ => ⟨_, rfl, rfl⟩
theorem irq : Statement .irq := fun _ => ⟨_, rfl, rfl⟩
theorem beginWrite (bytes : List Byte) : Statement (.beginWrite bytes) := fun _ => ⟨_, rfl, by simp⟩
theorem drive (h : Nat) : Statement (.drive h) := fun _ => ⟨_, rfl, by simp⟩
theorem drop : Statement .drop := fun _ => ⟨_, rfl, rfl⟩
theorem dr (a : Access) : Statement (.dr a) := fun _ => by cases a <;> exact ⟨_, rfl, rfl⟩
theorem fr : Statement .fr := fun _ => ⟨_, rfl, rfl⟩
theorem ibrd (a : Access) : Statement (.ibrd a) := fun _ => by cases a <;> exact ⟨_, rfl, rfl⟩
theorem fbrd (a : Access) : Statement (.fbrd a) := fun _ => by cases a <;> exact ⟨_, rfl, rfl⟩
theorem lcrh (a : Access) : Statement (.lcrh a) := fun _ => by cases a <;> exact ⟨_, rfl, rfl⟩
theorem cr (a : Access) : Statement (.cr a) := fun _ => by cases a <;> exact ⟨_, rfl, rfl⟩
theorem ifls (a : Access) : Statement (.ifls a) := fun _ => by cases a <;> exact ⟨_, rfl, rfl⟩
theorem imsc (a : Access) : Statement (.imsc a) := fun _ => by cases a <;> exact ⟨_, rfl, rfl⟩
theorem ris : Statement .ris := fun _ => ⟨_, rfl, rfl⟩
theorem mis : Statement .mis := fun _ => ⟨_, rfl, rfl⟩
theorem icr (a : Access) : Statement (.icr a) := fun _ => by cases a <;> exact ⟨_, rfl, rfl⟩

end Sys2Proof.Laws.Format
end

