-- ==== Sys2Proof/Laws/Sequencer.lean ====
section
/-! SUPPORT. What a micro-step can do, said once: one inversion lemma per label, one induction for the micro-steps a
step runs, one for the entry, and what a command does once it is presented. -/

namespace Sys2Proof.Machine

/-! ### One inversion lemma per label -/

theorem microInit_next {r : Reg} {v : Word} {p : Phase} {s t : State} :
    microInit r v p s = .next t ↔ Launch s ∧ t = { afterWrite s r v with upc := p } := by
  constructor
  · intro h
    obtain ⟨hl, h⟩ := regWrite_eq_next h
    cases h
    exact ⟨hl, rfl⟩
  · rintro ⟨hl, rfl⟩
    simp only [microInit, regWrite_of_launch _ _ _ hl]

theorem microP1_next {s t : State} :
    microP1 s = .next t ↔ Launch s ∧
      t = { afterRead s .fr with
            scr := { s.scr with f := answer s .fr }
            upc := if txBusy (answer s .fr) then .p1 else .p2 } := by
  constructor
  · intro h
    obtain ⟨hl, h⟩ := regRead_eq_next h
    cases h
    exact ⟨hl, rfl⟩
  · rintro ⟨hl, rfl⟩
    simp only [microP1, regRead_of_launch _ _ hl, afterRead_scr]

theorem microP2_next {s t : State} :
    microP2 s = .next t ↔ Launch s ∧ t = respond .ok (afterWrite s .dr (zext32 s.scr.b)) := by
  constructor
  · intro h
    obtain ⟨hl, h⟩ := regWrite_eq_next h
    cases h
    exact ⟨hl, rfl⟩
  · rintro ⟨hl, rfl⟩
    simp only [microP2, regWrite_of_launch _ _ _ hl]

theorem microG1_next {s t : State} :
    microG1 s = .next t ↔ Launch s ∧
      t = { afterRead s .fr with
            scr := { s.scr with f := answer s .fr }
            upc := if rxEmpty (answer s .fr) then .g1 else .g2 } := by
  constructor
  · intro h
    obtain ⟨hl, h⟩ := regRead_eq_next h
    cases h
    exact ⟨hl, rfl⟩
  · rintro ⟨hl, rfl⟩
    simp only [microG1, regRead_of_launch _ _ hl, afterRead_scr]

theorem microG2_next {s t : State} :
    microG2 s = .next t ↔ Launch s ∧
      t = respond (.byte (low8 (answer s .dr)))
            { afterRead s .dr with scr := { s.scr with d := answer s .dr } } := by
  constructor
  · intro h
    obtain ⟨hl, h⟩ := regRead_eq_next h
    cases h
    exact ⟨hl, rfl⟩
  · rintro ⟨hl, rfl⟩
    simp only [microG2, regRead_of_launch _ _ hl, afterRead_scr]

theorem microQ1_next {s t : State} :
    microQ1 s = .next t ↔ Launch s ∧
      t = respond (.bool (rxPending s.cfg (answer s .mis)))
            { afterRead s .mis with scr := { s.scr with m := answer s .mis } } := by
  constructor
  · intro h
    obtain ⟨hl, h⟩ := regRead_eq_next h
    cases h
    exact ⟨hl, rfl⟩
  · rintro ⟨hl, rfl⟩
    simp only [microQ1, regRead_of_launch _ _ hl, afterRead_scr]

theorem microA1_next {s t : State} :
    microA1 s = .next t ↔ Launch s ∧ t = respond .ok (afterWrite s .icr s.cfg.clearAll) := by
  constructor
  · intro h
    obtain ⟨hl, h⟩ := regWrite_eq_next h
    cases h
    exact ⟨hl, rfl⟩
  · rintro ⟨hl, rfl⟩
    simp only [microA1, regWrite_of_launch _ _ _ hl]

theorem microD1_next {s t : State} :
    microD1 s = .next t ↔
      (s.len ≤ s.cur ∧ t = respond (.complete s.cur) { s with opst := .complete }) ∨
      (s.cur < s.len ∧ t = { s with upc := .d2 }) := by
  unfold microD1 writeDone
  by_cases h : s.len ≤ s.cur
  · simp [h, eq_comm, Nat.not_lt.mpr h]
  · simp [h, eq_comm, Nat.lt_of_not_le h]

theorem microD2_next {s t : State} :
    microD2 s = .next t ↔ Launch s ∧
      ((txFull (answer s .fr) = true ∧
          t = { afterRead s .fr with scr := { s.scr with f := answer s .fr }, upc := .ds }) ∨
       (txFull (answer s .fr) = false ∧
          t = { afterRead s .fr with
                scr := { s.scr with f := answer s .fr }, upc := .d3, opst := .active })) := by
  constructor
  · intro h
    obtain ⟨hl, h⟩ := regRead_eq_next h
    refine ⟨hl, ?_⟩
    split at h
    · rename_i hf
      cases h
      exact .inl ⟨hf, rfl⟩
    · rename_i hf
      cases h
      exact .inr ⟨by simpa using hf, rfl⟩
  · rintro ⟨hl, ⟨hf, rfl⟩ | ⟨hf, rfl⟩⟩ <;>
      simp [microD2, regRead_of_launch _ _ hl, hf]

theorem microD3_next {s t : State} :
    microD3 s = .next t ↔ Launch s ∧
      t = { afterRead s .fr with
            scr := { s.scr with f := answer s .fr }
            upc := if txBusy (answer s .fr) then .d3 else .d4 } := by
  constructor
  · intro h
    obtain ⟨hl, h⟩ := regRead_eq_next h
    cases h
    exact ⟨hl, rfl⟩
  · rintro ⟨hl, rfl⟩
    simp only [microD3, regRead_of_launch _ _ hl, afterRead_scr]

theorem microD4_next {s t : State} :
    microD4 s = .next t ↔ Launch s ∧ ∃ b, s.buf[s.cur]? = some b ∧
      t = { afterWrite s .dr (zext32 b) with
            upc := .d5, ghost := { s.ghost with opWrites := s.ghost.opWrites ++ [zext32 b] } } := by
  constructor
  · intro h
    unfold microD4 bufByte at h
    split at h
    · cases h
    · rename_i b hb
      obtain ⟨hl, h⟩ := regWrite_eq_next h
      cases h
      exact ⟨hl, b, hb, rfl⟩
  · rintro ⟨hl, b, hb, rfl⟩
    simp [microD4, bufByte, hb, regWrite_of_launch _ _ _ hl]

/-! ### The phase register selects the micro-step -/

theorem micro_eq_next {s t : State} (h : micro s = .next t) :
    (s.upc = .idle ∧ t = s) ∨
    (s.upc = .c1 ∧ t = { s with upc := if s.scr.base = 0 then .c2 else .c3 }) ∨
    (s.upc = .c2 ∧ t = raiseNullBase s) ∨
    (s.upc = .c3 ∧ microC3 s = .next t) ∨
    (∃ r v p, s.upc ≠ .idle ∧ constructing s.upc = false ∧ operating s.upc = false ∧
      spinning s.upc = false ∧
      p ≠ .idle ∧ p ≠ s.upc ∧ constructing p = false ∧ operating p = false ∧
      (r ≠ .dr ∧ r ≠ .fr ∧ r ≠ .ris ∧ r ≠ .mis ∧ r ≠ .icr) ∧
      t = { afterWrite s r v with upc := p } ∧ Launch s) ∨
    (s.upc = .i8 ∧ microI8 s = .next t) ∨
    (s.upc = .p1 ∧ microP1 s = .next t) ∨
    (s.upc = .p2 ∧ microP2 s = .next t) ∨
    (s.upc = .g1 ∧ microG1 s = .next t) ∨
    (s.upc = .g2 ∧ microG2 s = .next t) ∨
    (s.upc = .q1 ∧ microQ1 s = .next t) ∨
    (s.upc = .a1 ∧ microA1 s = .next t) ∨
    (s.upc = .b1 ∧ microB1 s = .next t) ∨
    (s.upc = .d1 ∧ microD1 s = .next t) ∨
    (s.upc = .d2 ∧ microD2 s = .next t) ∨
    (s.upc = .ds ∧ microDS s = .next t) ∨
    (s.upc = .d3 ∧ microD3 s = .next t) ∨
    (s.upc = .d4 ∧ microD4 s = .next t) ∨
    (s.upc = .d5 ∧ microD5 s = .next t) ∨
    (s.upc = .x1 ∧ microX1 s = .next t) := by
  unfold micro at h
  split at h
  case h_1 hp => cases h; exact .inl ⟨hp, rfl⟩
  case h_2 hp => cases h; exact .inr (.inl ⟨hp, rfl⟩)
  case h_3 hp => cases h; exact .inr (.inr (.inl ⟨hp, rfl⟩))
  case h_5 hp | h_6 hp | h_7 hp | h_8 hp | h_9 hp | h_10 hp | h_11 hp =>
    obtain ⟨hl, ht⟩ := microInit_next.mp h
    exact .inr (.inr (.inr (.inr (.inl ⟨_, _, _, by simp [hp], by simp [hp, constructing],
      by simp [hp, operating], by simp [hp, spinning], by simp, by simp [hp], rfl, rfl, by simp, ht, hl⟩))))
  all_goals
    rename_i hp
    simp only [hp, reduceCtorEq, false_and, true_and, false_or, ne_eq, h, or_true, true_or]
    try simp

/-! ### The micro-steps one step runs -/

/-- What every micro-step keeps, the micro-steps of a step keep. -/
theorem runMicros_keeps (P : State → Prop) (hP : ∀ u v, P u → micro u = .next v → P v) :
    ∀ (n : Nat) (s t : State), P s → runMicros n s = .next t → P t := by
  intro n
  induction n with
  | zero => intro s t hs h; cases h; exact hs
  | succ n ih =>
    intro s t hs h
    obtain ⟨u, hu, h⟩ := andThen_eq_next h
    split at h
    · cases h; exact hP _ _ hs hu
    · exact ih _ _ (hP _ _ hs hu) h

/-- What every micro-step keeps, one step of a foreground command keeps. -/
theorem advance_keeps (P : State → Prop) (hP : ∀ u v, P u → micro u = .next v → P v) {s t : State} (hs : P s)
    (h : advance s = .next t) : P t := by
  unfold advance at h
  split at h
  · exact runMicros_keeps P hP _ _ _ hs h
  · exact hP _ _ hs h

theorem runEntry_keeps (P : State → Prop) (hP : ∀ u v, P u → entryMicro u = .next v → P v) :
    ∀ (n : Nat) (s t : State), P s → runEntry n s = .next t → P t := by
  intro n
  induction n with
  | zero => intro s t hs h; cases h; exact hs
  | succ n ih =>
    intro s t hs h
    obtain ⟨u, hu, h⟩ := andThen_eq_next h
    split at h
    · cases h; exact hP _ _ hs hu
    · exact ih _ _ (hP _ _ hs hu) h

/-- What every micro-step of the entry keeps, one step of the entry keeps. -/
theorem advanceEntry_keeps (P : State → Prop) (hP : ∀ u v, P u → entryMicro u = .next v → P v) {s t : State}
    (hs : P s) (h : advanceEntry s = .next t) : P t := by
  unfold advanceEntry at h
  split at h
  · exact runEntry_keeps P hP _ _ _ hs h
  · exact hP _ _ hs h

/-- One micro-step that responds, or that polls in vain, is all a run of micro-steps makes. -/
theorem runMicros_stop {n : Nat} {s t : State} (h : micro s = .next t) (ht : t.upc = .idle ∨ t.upc = s.upc) :
    runMicros (n + 1) s = .next t := by
  simp only [runMicros, h, andThen_next, if_pos ht]

/-- After one micro-step that does neither, the run goes on. -/
theorem runMicros_go {n : Nat} {s t : State} (h : micro s = .next t) (h1 : t.upc ≠ .idle) (h2 : t.upc ≠ s.upc) :
    runMicros (n + 1) s = runMicros n t := by
  simp only [runMicros, h, andThen_next, h1, h2, or_self, if_false]

/-- A state is quiet when nothing is scheduled, no other master waits, and no request may preempt (R243). -/
theorem quiet_iff {s : State} :
    quiet s = true ↔ s.sched = [] ∧ s.bus = none ∧ (s.cfg.irqPreempts = false ∨ s.irqReq = 0) := by
  simp [quiet, and_assoc]

theorem entryQuiet_iff {s : State} : entryQuiet s = true ↔ s.sched = [] ∧ s.bus = none := by
  simp [entryQuiet]

/-- In a quiet state a step runs micro-steps within the budget. -/
theorem advance_of_quiet {s : State} (h : quiet s = true) : advance s = runMicros (5 * (s.len - s.cur) + 8 + 1) s := by
  simp only [advance, h, if_true, microBudget]

/-- In a state that is not quiet a step is one micro-step. -/
theorem advance_of_not_quiet {s : State} (h : quiet s = false) : advance s = micro s := by
  simp [advance, h]

/-- A command that responds with its first micro-step does so whether or not others may move. -/
theorem advance_of_micro {s t : State} (h : micro s = .next t) (ht : t.upc = .idle ∨ t.upc = s.upc) :
    advance s = .next t := by
  unfold advance
  split
  · exact runMicros_stop h ht
  · exact h

/-- In a quiet state a command is accepted and advanced in one step. -/
theorem accept_of_quiet {s : State} (h : quiet s = true) : accept s = advance s := by
  simp only [accept, advance, h, if_true]

/-- In a state that is not quiet the acceptance is a step of its own. -/
theorem accept_of_not_quiet {s : State} (h : quiet s = false) : accept s = .next s := by
  simp [accept, h]

/-- What an acceptance does: nothing more, or the micro-steps of a quiet step. -/
theorem accept_eq_next {s t : State} (h : accept s = .next t) :
    (quiet s = false ∧ t = s) ∨ (quiet s = true ∧ advance s = .next t) := by
  cases hq : quiet s with
  | false => rw [accept_of_not_quiet hq] at h; cases h; exact .inl ⟨rfl, rfl⟩
  | true => rw [accept_of_quiet hq] at h; exact .inr ⟨rfl, h⟩

/-- What every micro-step keeps, the acceptance of a command keeps. -/
theorem accept_keeps (P : State → Prop) (hP : ∀ u v, P u → micro u = .next v → P v) {s t : State} (hs : P s)
    (h : accept s = .next t) : P t := by
  rcases accept_eq_next h with ⟨-, rfl⟩ | ⟨-, h⟩
  · exact hs
  · exact advance_keeps P hP hs h

/-! ### Commands -/

/-- A refused command changes nothing but the trace, the response port and the mark (R232). -/
theorem startCommand_refused {i : Instr} {r : Reason} {p : Phase} {latch : State → State} {s : State} :
    startCommand i (some r) p latch s = .next (refuse .command r (logCmd i s)) := rfl

/-- An admitted command is accepted at its first label. -/
theorem startCommand_admitted {i : Instr} {p : Phase} {latch : State → State} {s : State} :
    startCommand i none p latch s = accept { latch (logCmd i s) with upc := p } := rfl

/-- What a command does once it is presented: it is refused, or it is accepted at its first label. -/
theorem startCommand_eq_next {i : Instr} {check : Option Reason} {p : Phase} {latch : State → State} {s t : State}
    (h : startCommand i check p latch s = .next t) :
    (∃ r, check = some r ∧ t = refuse .command r (logCmd i s)) ∨
    (check = none ∧ accept { latch (logCmd i s) with upc := p } = .next t) := by
  cases check with
  | some r => cases h; exact .inl ⟨r, rfl, rfl⟩
  | none => exact .inr ⟨rfl, h⟩

/-- What an interrupt request does once it is served: it is refused, or the entry runs from H1. -/
theorem startIrq_eq_next {p : IrqPort} {s t : State} (h : startIrq p s = .next t) :
    (∃ r, needReady s = some r ∧ t = refuse p r (logCmd .irq s)) ∨
    (needReady s = none ∧ advanceEntry (takeIrq p (logCmd .irq s)) = .next t) := by
  unfold startIrq at h
  split at h
  · rename_i r hr
    cases h
    exact .inl ⟨r, hr, rfl⟩
  · rename_i hr
    exact .inr ⟨hr, h⟩

/-! ### The entry -/

theorem entryH2_next {s t : State} :
    entryH2 s = .next t ↔ Launch s ∧
      t = { afterRead s .mis with
            scr := { s.scr with m := answer s .mis }
            ipc := if wakeCondition s.cfg (answer s .mis) then .h3 else .h4 } := by
  constructor
  · intro h
    obtain ⟨hl, h⟩ := regRead_eq_next h
    cases h
    exact ⟨hl, rfl⟩
  · rintro ⟨hl, rfl⟩
    simp only [entryH2, regRead_of_launch _ _ hl, afterRead_scr]

theorem entryH4_next {s t : State} :
    entryH4 s = .next t ↔ Launch s ∧ t = returnIrq (afterWrite s .icr s.cfg.clearAll) := by
  constructor
  · intro h
    obtain ⟨hl, h⟩ := regWrite_eq_next h
    cases h
    exact ⟨hl, rfl⟩
  · rintro ⟨hl, rfl⟩
    simp only [entryH4, regWrite_of_launch _ _ _ hl]

/-- The entry's micro-step, by its phase. -/
theorem entryMicro_eq_next {s t : State} (h : entryMicro s = .next t) :
    (s.ipc = .idle ∧ t = s) ∨
    (s.ipc = .h1 ∧ t = { countIrq s with ipc := .h2 }) ∨
    (s.ipc = .h2 ∧ Launch s ∧
      t = { afterRead s .mis with
            scr := { s.scr with m := answer s .mis }
            ipc := if wakeCondition s.cfg (answer s .mis) then .h3 else .h4 }) ∨
    (s.ipc = .h3 ∧ t = { fireWake s with ipc := .h4 }) ∨
    (s.ipc = .h4 ∧ Launch s ∧ t = returnIrq (afterWrite s .icr s.cfg.clearAll)) := by
  unfold entryMicro at h
  split at h
  case h_1 hp => cases h; exact .inl ⟨hp, rfl⟩
  case h_2 hp => cases h; exact .inr (.inl ⟨hp, rfl⟩)
  case h_3 hp => exact .inr (.inr (.inl ⟨hp, entryH2_next.mp h⟩))
  case h_4 hp => cases h; exact .inr (.inr (.inr (.inl ⟨hp, rfl⟩)))
  case h_5 hp => exact .inr (.inr (.inr (.inr ⟨hp, entryH4_next.mp h⟩)))

end Sys2Proof.Machine
end

