-- ==== Sys2Proof/Laws/Step.lean ====
section
/-! SUPPORT. What a step can do, said once: the move that is scheduled, or what the block's own step serves; and what
each instruction does once it is executed. -/

namespace Sys2Proof.Machine

/-- What a step runs: the scheduled move of an agent, or the block's own step. -/
theorem step_eq_next {s t : State} (h : step s = .next t) :
    (∃ m rest, s.sched = m :: rest ∧ m ≠ .block ∧ t = applyMove m { s with sched := rest }) ∨
    (s.sched = [] ∧ blockStep s = .next t) ∨
    (∃ rest, s.sched = .block :: rest ∧ blockStep { s with sched := rest } = .next t) := by
  unfold step at h
  split at h
  · rename_i hs; exact .inr (.inl ⟨hs, h⟩)
  · rename_i rest hs; exact .inr (.inr ⟨rest, hs, h⟩)
  · rename_i m rest hb hs
    cases h
    exact .inl ⟨m, rest, hs, hb, rfl⟩

/-- What the block's own step serves, in order: another master's transaction, the entry in progress, a waiting interrupt
request, the foreground command in progress, the next command (R81 of 20_memory.md, R242, R243, R246). -/
theorem blockStep_eq_next {s t : State} (h : blockStep s = .next t) :
    (∃ x i, s.bus = some x ∧ decodeTxn x = .ok i ∧ exec i { s with bus := none } = .next t) ∨
    (s.bus = none ∧ s.ipc ≠ .idle ∧ advanceEntry s = .next t) ∨
    (s.bus = none ∧ s.ipc = .idle ∧ mayServeIrq s = true ∧
      startIrq .request { s with irqReq := s.irqReq - 1 } = .next t) ∨
    (s.bus = none ∧ s.ipc = .idle ∧ mayServeIrq s = false ∧ s.upc ≠ .idle ∧ advance s = .next t) ∨
    (s.bus = none ∧ s.ipc = .idle ∧ mayServeIrq s = false ∧ s.upc = .idle ∧ serveCommand s = .next t) := by
  unfold blockStep at h
  split at h
  · rename_i x hx
    unfold serveBus at h
    split at h
    · rename_i i hi; exact .inl ⟨x, i, hx, hi, h⟩
    · cases h
    · cases h
  · rename_i hb
    split at h
    · rename_i hi; exact .inr (.inl ⟨hb, hi, h⟩)
    · rename_i hi
      have hi' : s.ipc = .idle := by simpa using hi
      split at h
      · rename_i hm; exact .inr (.inr (.inl ⟨hb, hi', hm, h⟩))
      · rename_i hm
        have hm' : mayServeIrq s = false := by simpa using hm
        split at h
        · rename_i hu; exact .inr (.inr (.inr (.inl ⟨hb, hi', hm', hu, h⟩)))
        · rename_i hu; exact .inr (.inr (.inr (.inr ⟨hb, hi', hm', by simpa using hu, h⟩)))

/-- What serving the command port can do (R110, R122 of 30_encoding.md). -/
theorem serveCommand_eq_next {s t : State} (h : serveCommand s = .next t) :
    (∃ i rest, decode s.cfg s.cmdIn = .instr i rest ∧ exec i { s with cmdIn := rest } = .next t) ∨
    (∃ op rest, decode s.cfg s.cmdIn = .illegal op rest ∧ t = refuseOpcode op { s with cmdIn := rest }) ∨
    (decode s.cfg s.cmdIn = .incomplete ∧ t = s) := by
  unfold serveCommand at h
  split at h
  · rename_i i rest hd; exact .inl ⟨i, rest, hd, h⟩
  · rename_i op rest hd; cases h; exact .inr (.inl ⟨op, rest, hd, rfl⟩)
  · rename_i hd; cases h; exact .inr (.inr ⟨hd, rfl⟩)

/-- A register row is one access of another master, whatever the state. -/
theorem exec_row {i : Instr} {r : Reg} (h : rowReg i = some r) (s : State) :
    ∃ a, exec i s = .next (otherAccess r a s) := by
  cases i <;> simp only [rowReg, reduceCtorEq, Option.some.injEq] at h <;> subst h <;>
    exact ⟨_, rfl⟩

/-- The decoder of the command port gives commands only. -/
theorem decode_isCommand {c : Config} {bs rest : List Byte} {i : Instr} (h : decode c bs = .instr i rest) :
    isCommand i = true := by
  unfold decode at h
  split at h
  · cases h
  · split at h <;> first
      | (cases h <;> rfl)
      | (obtain ⟨v, -, -, rfl⟩ := decodeNumber_eq_instr h; rfl)
      | (obtain ⟨b, -, rfl⟩ := decodeByte_eq_instr h; rfl)
      | (obtain ⟨l, b, -, -, -, rfl⟩ := decodeBuffer_eq_instr h; rfl)

/-! ### What each instruction does once it is executed -/

/-- The first label of each foreground command; IRQ and the register rows have none. -/
def firstLabel : Instr → Option Phase
  | .construct _ => some .c1
  | .init => some .i1
  | .putc _ => some .p1
  | .getc => some .g1
  | .rxpend => some .q1
  | .ack => some .a1
  | .beginWrite _ => some .b1
  | .drive _ => some .d1
  | .drop => some .x1
  | _ => none

/-- The operands of each foreground command, latched. -/
def latched (i : Instr) (s : State) : State :=
  match i with
  | .construct base => { s with scr := { s.scr with base := base } }
  | .putc b => { s with scr := { s.scr with b := b } }
  | .beginWrite bytes => { s with scr := { s.scr with bytes := bytes } }
  | .drive h => takeWoken h { s with scr := { s.scr with h := h } }
  | _ => s

/-- What R233 of 60_exceptions.md asks of the state before each foreground command. -/
def Admitted : Instr → State → Prop
  | .construct _, s => s.life = .reset
  | .drive _, s => OperationAlive s
  | .drop, s => OperationAlive s
  | _, s => DriverFree s

/-- A foreground command is started at its first label with its operands latched, under its admission check. -/
theorem exec_foreground {i : Instr} {p : Phase} (hp : firstLabel i = some p) (s : State) :
    ∃ check, exec i s = startCommand i check p (latched i) s ∧ (check = none ↔ Admitted i s) := by
  cases i <;> simp only [firstLabel, Option.some.injEq, reduceCtorEq] at hp <;> subst hp <;>
    exact ⟨_, rfl, by simp only [Admitted, needReset_eq_none, needDriver_eq_none, needOperation_eq_none]⟩

/-- Every instruction that answers a next state: a register row made its access, IRQ was served, a foreground command
was refused, or it was admitted and accepted at its first label. -/
theorem exec_eq_next {i : Instr} {s t : State} (h : exec i s = .next t) :
    (∃ r a, rowReg i = some r ∧ t = otherAccess r a s) ∨
    (i = .irq ∧ startIrq .command s = .next t) ∨
    (∃ p r, firstLabel i = some p ∧ t = refuse .command r (logCmd i s)) ∨
    (∃ p, firstLabel i = some p ∧ Admitted i s ∧
      accept { latched i (logCmd i s) with upc := p } = .next t) := by
  cases i with
  | irq => exact .inr (.inl ⟨rfl, h⟩)
  | construct _ | init | putc _ | getc | rxpend | ack | beginWrite _ | drive _ | drop =>
    simp only [exec, execConstruct, execInit, execPutc, execGetc, execRxpend, execAck, execBegin, execDrive,
      execDrop] at h
    rcases startCommand_eq_next h with ⟨r, -, rfl⟩ | ⟨hn, h⟩
    · exact .inr (.inr (.inl ⟨_, r, rfl, rfl⟩))
    · refine .inr (.inr (.inr ⟨_, rfl, ?_, h⟩))
      simpa only [Admitted, needReset_eq_none, needDriver_eq_none, needOperation_eq_none] using hn
  | _ => exact .inl ⟨_, _, rfl, (Host.Outcome.next.inj h).symm⟩

end Sys2Proof.Machine
end

