-- ==== Sys2Proof/Machine/Assembler.lean ====
section
/-! DEFINITION. The textual forms: commands and responses (R127 of 30_encoding.md), trace events (R18 of 00_scope.md,
R80 of 20_memory.md), and the pseudo-commands SETUP, PUTS and WRITE (R128 of 30_encoding.md). Nothing of the machine
reads them. -/

namespace Sys2Proof.Machine

/-- One hexadecimal digit. -/
def hexDigit (n : Nat) : String :=
  match n with
  | 0 => "0" | 1 => "1" | 2 => "2" | 3 => "3" | 4 => "4" | 5 => "5" | 6 => "6" | 7 => "7"
  | 8 => "8" | 9 => "9" | 10 => "A" | 11 => "B" | 12 => "C" | 13 => "D" | 14 => "E" | _ => "F"

/-- The n low hexadecimal digits of v. -/
def hexDigits : Nat → Nat → String
  | 0, _ => ""
  | n + 1, v => hexDigits n (v / 16) ++ hexDigit (v % 16)

/-- v in hexadecimal with n digits (R16 of 00_scope.md). -/
def hex (n v : Nat) : String := "0x" ++ hexDigits n v

/-- A number in decimal. -/
def decimal (n : Nat) : String := toString n

/-- The listed bytes of BEGIN, separated by commas (R127). -/
def byteList : List Byte → String
  | [] => ""
  | [b] => hex 2 b.toNat
  | b :: c :: rest => hex 2 b.toNat ++ ", " ++ byteList (c :: rest)

/-- The name of a register (R44 of 10_state.md). -/
def regName : Reg → String
  | .dr => "DR"
  | .fr => "FR"
  | .ibrd => "IBRD"
  | .fbrd => "FBRD"
  | .lcrh => "LCR_H"
  | .cr => "CR"
  | .ifls => "IFLS"
  | .imsc => "IMSC"
  | .ris => "RIS"
  | .mis => "MIS"
  | .icr => "ICR"

/-- A transaction in the trace's notation (R18); the answer of a read is not part of it. -/
def accessText (r : Reg) : Access → String
  | .read => "R " ++ hex 2 (regOffset r)
  | .write v => "W " ++ hex 2 (regOffset r) ++ " <- " ++ hex 8 v.toNat

/-- The textual form of an instruction: the mnemonic and its operand (R127); a register row in the trace's notation. -/
def instrText (c : Config) : Instr → String
  | .construct base => "CONSTRUCT " ++ hex (c.aw / 4) base
  | .init => "INIT"
  | .putc b => "PUTC " ++ hex 2 b.toNat
  | .getc => "GETC"
  | .rxpend => "RXPEND"
  | .ack => "ACK"
  | .irq => "IRQ"
  | .beginWrite bytes => "BEGIN [" ++ byteList bytes ++ "]"
  | .drive h => "DRIVE " ++ decimal h
  | .drop => "DROP"
  | .dr a => accessText .dr a
  | .fr => accessText .fr .read
  | .ibrd a => accessText .ibrd a
  | .fbrd a => accessText .fbrd a
  | .lcrh a => accessText .lcrh a
  | .cr a => accessText .cr a
  | .ifls a => accessText .ifls a
  | .imsc a => accessText .imsc a
  | .ris => accessText .ris .read
  | .mis => accessText .mis .read
  | .icr a => accessText .icr a

/-- The textual form of a response (R127). -/
def responseText : Response → String
  | .ok => "-> OK"
  | .byte b => "-> BYTE " ++ hex 2 b.toNat
  | .bool b => if b then "-> BOOL 1" else "-> BOOL 0"
  | .suspended => "-> SUSPENDED"
  | .complete n => "-> COMPLETE " ++ decimal n
  | .fatal code => "-> FATAL " ++ decimal code.toNat
  | .refused r => "-> REFUSED " ++ decimal (reasonCode r).toNat

/-- The textual form of a trace event (R18, R80). -/
def eventText (c : Config) : Event → String
  | .cmd i => "cmd " ++ instrText c i
  | .badOpcode op => "cmd " ++ hex 2 op.toNat
  | .rsp _ x => "rsp " ++ responseText x
  | .read r _ v => "R " ++ hex 2 (regOffset r) ++ " -> " ++ hex 8 v.toNat
  | .write r _ v => "W " ++ hex 2 (regOffset r) ++ " <- " ++ hex 8 v.toNat
  | .wakeOut h => "WAKE_OUT " ++ decimal h
  | .otherRead r v => "other R " ++ hex 2 (regOffset r) ++ " -> " ++ hex 8 v.toNat
  | .otherWrite r v => "other W " ++ hex 2 (regOffset r) ++ " <- " ++ hex 8 v.toNat

/-! ### Pseudo-commands (R128) -/

/-- SETUP base = CONSTRUCT base; INIT. -/
def setup (base : Nat) : List Instr := [.construct base, .init]

/-- PUTS [b0, ..., bk] = PUTC b0; ...; PUTC bk. -/
def puts (bytes : List Byte) : List Instr := bytes.map .putc

/-- Where the host stands in a WRITE h, [b0, ..., bk]. -/
inductive WriteStage where
  | start | driving | waiting | dropping | done
  deriving DecidableEq, Repr

/-- The command the host issues at a stage; waiting and done issue none. -/
def writeCommand (h : Nat) (bytes : List Byte) : WriteStage → Option Instr
  | .start => some (.beginWrite bytes)
  | .driving => some (.drive h)
  | .waiting => none
  | .dropping => some .drop
  | .done => none

/-- The next stage, after the response of the stage's command or, when waiting, on seeing the woken handles: BEGIN, then
DRIVE until COMPLETE, waiting for WAKE_OUT h after each SUSPENDED, then DROP. A WRITE may wait for ever.
R128 names no answer but SUSPENDED and COMPLETE. DESIGN CHOICE (log entry 34): BEGIN is followed by DRIVE whatever it
answered, a REFUSED or FATAL answer to DRIVE ends the WRITE without DROP, and any other answer repeats the DRIVE. -/
def writeNext (h : Nat) (rsp : Response) (woken : List Nat) : WriteStage → WriteStage
  | .start => .driving
  | .driving =>
    match rsp with
    | .suspended => .waiting
    | .complete _ => .dropping
    | .ok => .driving
    | .byte _ => .driving
    | .bool _ => .driving
    | .fatal _ => .done
    | .refused _ => .done
  | .waiting => if h ∈ woken then .driving else .waiting
  | .dropping => .done
  | .done => .done

end Sys2Proof.Machine
end

