-- ==== Sys2Proof/Tests/Slice0.lean ====
section
/-! SUPPORT. Tests: ill-formed terms, words written out bit by bit, the vectors of 95_test_vectors.md (each named by its
id there), and for every obligation with hypotheses a state and operands that meet them. -/

namespace Sys2Proof.Tests

open Sys2Proof Sys2Proof.Machine

set_option maxRecDepth 20000

/-! ### Small states -/

/-- After V-CON-1 on the mock with the given flag script. -/
def ready (frq : List Word) : State :=
  { State.reset with life := .ready, base := 0x09000000, uart := mockUart frq }

/-- A live operation on bytes, cur of them sent, on the mock. -/
def alive (st : OpState) (bytes : List Byte) (cur : Nat) (frq : List Word) : State :=
  { ready frq with
    opst := st
    buf := bytes
    len := bytes.length
    cur := cur
    ghost := { Ghost.reset with opWrites := (bytes.take cur).map zext32 } }

/-- The mock's pending sources and mask set, as a script does. -/
def pending (ris imsc : Word) (s : State) : State := { s with uart := { s.uart with ris := ris, imsc := imsc } }

/-- A command at the port of a driver that interrupts may preempt, and a request that comes after its acceptance. -/
def inside (bytes : List Byte) : State :=
  { ready [0] with
    cfg := { Config.default with irqPreempts := true }
    uart := { mockUart [0] with ris := 0x10, imsc := 0x7FF }
    cmdIn := bytes
    sched := [.block, .irq] }

/-- What is seen of a next state. -/
def see {α : Type} (o : Out) (f : State → α) : Option α :=
  match o with
  | .next t => some (f t)
  | .fault _ => none
  | .refused _ => none

/-- The next state, and the state itself where there is none. -/
def after (i : Instr) (s : State) : State :=
  match exec i s with
  | .next t => t
  | .fault _ => s
  | .refused _ => s

/-- The state one step on. -/
def stepped (s : State) : State :=
  match step s with
  | .next t => t
  | .fault _ => s
  | .refused _ => s

/-- (LIFE, WAKE, IRQCNT, OPST, LEN, CUR), the notation of 95_test_vectors.md. -/
structure Regs where
  life : Life
  wake : Option Nat
  irqcnt : Nat
  opst : OpState
  len : Nat
  cur : Nat
  deriving DecidableEq, Repr

def regs (s : State) : Regs := ⟨s.life, s.wake, s.irqcnt, s.opst, s.len, s.cur⟩

/-! ### Well-formedness refuses -/

theorem test_wf_construct_wide : Instr.wf Config.default (.construct (2 ^ 64)) = false := by decide
theorem test_wf_construct_widest : Instr.wf Config.default (.construct (2 ^ 64 - 1)) = true := by decide
theorem test_wf_drive_wide : Instr.wf Config.default (.drive (2 ^ 32)) = false := by decide
theorem test_wf_begin_long :
    Instr.wf { Config.default with lenw := 8 } (.beginWrite (List.replicate 256 0)) = false := by decide
theorem test_default_wf : Config.default.Wf := by decide
theorem test_default_as_built : Config.default.AsBuilt := by decide

/-! ### Words of the spec's encodings (R112 to R117, V-CON-1, S2a, V-ILL) -/

theorem test_decode_construct :
    decode Config.default [0b00000000, 0x00, 0x00, 0x00, 0x09, 0x00, 0x00, 0x00, 0x00] =
      .instr (.construct 0x09000000) [] := by decide
theorem test_decode_init : decode Config.default [0b00000001] = .instr .init [] := by decide
theorem test_decode_putc : decode Config.default [0b00000010, 0x48] = .instr (.putc 0x48) [] := by decide
theorem test_decode_getc : decode Config.default [0b00000011] = .instr .getc [] := by decide
theorem test_decode_rxpend : decode Config.default [0b00000100] = .instr .rxpend [] := by decide
theorem test_decode_ack : decode Config.default [0b00000101] = .instr .ack [] := by decide
theorem test_decode_irq : decode Config.default [0b00000110] = .instr .irq [] := by decide
theorem test_decode_begin :
    decode Config.default [0b00000111, 0x02, 0x00, 0x00, 0x00, 0x41, 0x42] =
      .instr (.beginWrite [0x41, 0x42]) [] := by decide
theorem test_decode_drive :
    decode Config.default [0b00001000, 0x07, 0x00, 0x00, 0x00] = .instr (.drive 7) [] := by decide
theorem test_decode_drive_order :
    decode Config.default [0b00001000, 0x01, 0x02, 0x03, 0x04] = .instr (.drive 0x04030201) [] := by decide
theorem test_decode_drop : decode Config.default [0b00001001] = .instr .drop [] := by decide
theorem test_decode_illegal_low : decode Config.default [0x0A] = .illegal 0x0A [] := by decide
theorem test_decode_illegal_nibble : decode Config.default [0x10, 0x01] = .illegal 0x10 [0x01] := by decide
theorem test_decode_illegal_top : decode Config.default [0xFF] = .illegal 0xFF [] := by decide
/-- V-ILL-10 -/
theorem test_decode_incomplete : decode Config.default [0x07, 0x02, 0x00, 0x00] = .incomplete := by decide
/-- V-ILL-9 -/
theorem test_decode_stream :
    decodeStream Config.default [0x0A, 0x01, 0x08, 0x07] =
      ([.illegal 0x0A, .command .init], [0x08, 0x07]) := by decide
/-- a parameter is a parameter: a 16-bit handle -/
theorem test_decode_narrow :
    decode { Config.default with hw := 16 } [0x08, 0x34, 0x12, 0x09] = .instr (.drive 0x1234) [0x09] := by decide

theorem test_row_dr : decodeTxn { write := true, off := 0b000000000000, data := 0x48 } = .ok (.dr (.write 0x48)) := rfl
theorem test_row_fr : decodeTxn { write := false, off := 0b000000011000, data := 0 } = .ok .fr := rfl
theorem test_row_ibrd :
    decodeTxn { write := true, off := 0b000000100100, data := 0x1A } = .ok (.ibrd (.write 0x1A)) := rfl
theorem test_row_fbrd : decodeTxn { write := true, off := 0b000000101000, data := 3 } = .ok (.fbrd (.write 3)) := rfl
theorem test_row_lcrh :
    decodeTxn { write := true, off := 0b000000101100, data := 0x60 } = .ok (.lcrh (.write 0x60)) := rfl
theorem test_row_cr : decodeTxn { write := false, off := 0b000000110000, data := 0 } = .ok (.cr .read) := rfl
theorem test_row_ifls : decodeTxn { write := false, off := 0b000000110100, data := 0 } = .ok (.ifls .read) := rfl
theorem test_row_imsc : decodeTxn { write := false, off := 0b000000111000, data := 0 } = .ok (.imsc .read) := rfl
theorem test_row_ris : decodeTxn { write := false, off := 0b000000111100, data := 0 } = .ok .ris := rfl
theorem test_row_mis : decodeTxn { write := false, off := 0b000001000000, data := 0 } = .ok .mis := rfl
theorem test_row_icr :
    decodeTxn { write := true, off := 0b000001000100, data := 0x7FF } = .ok (.icr (.write 0x7FF)) := rfl
theorem test_row_none :
    decodeTxn { write := true, off := 0x048, data := 0 } = .error (.noRegister 0x048) := rfl
theorem test_row_read_only :
    decodeTxn { write := true, off := 0x040, data := 0 } = .error (.readOnly .mis) := rfl

/-- every row of spec/opcode_table.json, as the host numbers its bits -/
theorem test_table_commands :
    (List.range 11).map (decodeTableWord 8) =
      [some (.construct 0), some .init, some (.putc 0), some .getc, some .rxpend, some .ack, some .irq,
        some (.beginWrite []), some (.drive 0), some .drop, none] := by decide
theorem test_table_registers :
    [0x000, 0x018, 0x024, 0x028, 0x02C, 0x030, 0x034, 0x038, 0x03C, 0x040, 0x044, 0x048].map (decodeTableWord 16) =
      [some (.dr .read), some .fr, some (.ibrd .read), some (.fbrd .read), some (.lcrh .read), some (.cr .read),
        some (.ifls .read), some (.imsc .read), some .ris, some .mis, some (.icr .read), none] := by decide

/-- the step of a state that holds a row's word runs that row: R113, R44 -/
theorem test_fetch_command :
    see (step (State.reset.withFetchWord 8 0x00)) (fun t => (t.life, t.rspOut)) =
      some (.halted, [.fatal 1]) := by decide
theorem test_fetch_register :
    see (step (State.reset.withFetchWord 16 0x044)) (fun t => (t.bus, t.draws, t.life)) =
      some (none, 1, .reset) := by decide

/-! ### The vectors -/

/-- V-CON-1 -/
theorem test_construct :
    see (exec (.construct 0x09000000) State.reset) (fun t => (regs t, t.base, t.rspOut.flatMap (responseBytes t.cfg))) =
      some (⟨.ready, none, 0, .none, 0, 0⟩, 0x09000000, [0x00]) := by decide
/-- V-CON-2 -/
theorem test_construct_null :
    see (exec (.construct 0) State.reset) (fun t => (t.life, responseStream t, blockAccesses t.trace)) =
      some (.halted, [0xFE, 0x01], []) := by decide
/-- V-INI-1, V-INI-5 -/
theorem test_init :
    see (exec .init (pending 0x7FF 0 (ready [0]))) (fun t => (t.trace.drop 1, t.uart.ris, maskedStatus t.uart)) =
      some ([.write .cr 0x09000030 0, .write .ibrd 0x09000024 0x1A, .write .fbrd 0x09000028 3,
        .write .lcrh 0x0900002C 0x60, .write .ifls 0x09000034 0x12, .write .imsc 0x09000038 0x7FF,
        .write .cr 0x09000030 0x301, .rsp .command .ok], 0x7FF, 0x7FF) := by decide
/-- V-PUT-1 -/
theorem test_putc_bit :
    see (exec (.putc 0x00) (ready [0xFFFFFFF7])) (fun t => (t.uart.txlog, responseStream t)) =
      some ([0], [0x00]) := by decide
/-- V-PUT-4 -/
theorem test_putc_hang :
    see (exec (.putc 0x48) (ready [0x08])) (fun t => (t.upc, t.uart.txlog, t.rspOut)) =
      some (.p1, [], []) := by decide
/-- V-GET-2, V-GET-4 -/
theorem test_getc :
    see (exec .getc { ready [0xFFFFFFEF] with uart := { mockUart [0xFFFFFFEF] with rxq := [0xF41, 0x100] } })
      (fun t => (responseStream t, t.uart.rxq)) = some ([0x01, 0x41], [0x100]) := by decide
/-- V-GET-5 -/
theorem test_getc_hang :
    see (exec .getc (ready [0x10])) (fun t => (t.upc, t.rspOut, blockAccesses t.trace)) =
      some (.g1, [], [(false, .fr)]) := by decide
/-- V-RXP-1 -/
theorem test_rxpend :
    see (exec .rxpend (pending 0x10 0x7FF (ready []))) responseStream = some [0x02, 0x01] := by decide
/-- V-RXP-5 -/
theorem test_rxpend_masked :
    see (exec .rxpend (pending 0x10 0 (ready []))) responseStream = some [0x02, 0x00] := by decide
/-- V-ACK-2 -/
theorem test_ack :
    see (exec .ack (pending 0xFFFFFFFF 0 (ready []))) (fun t => (t.uart.ris, t.trace.drop 1)) =
      some (0xFFFFF800, [.write .icr 0x09000044 0x7FF, .rsp .command .ok]) := by decide
/-- R280: an interrupt is served inside RXPEND and inside ACK, between the acceptance and the one micro-step -/
theorem test_irq_inside_rxpend :
    see (stepTimes 3 (inside [0x04])) (fun t => (t.upc, t.irqcnt, t.irqDone, t.rspOut)) =
      some (.q1, 1, [.ok], []) ∧
    see (stepTimes 4 (inside [0x04])) (fun t => (t.upc, t.rspOut)) = some (.idle, [.bool false]) := by decide
theorem test_irq_inside_ack :
    see (stepTimes 3 (inside [0x05])) (fun t => (t.upc, t.irqcnt, t.irqDone, t.rspOut)) =
      some (.a1, 1, [.ok], []) ∧
    see (stepTimes 4 (inside [0x05])) (fun t => (t.upc, t.rspOut)) = some (.idle, [.ok]) := by decide
/-- R160, R88: the MIS read after an ACK, on the oracle, mask 0x7FF -/
theorem test_ack_then_mis :
    see (andThen (exec .ack (pending 0x7FF 0x7FF { ready [] with uart := State.reset.uart })) (exec .mis))
      (fun t => t.trace.getLast?) = some (some (.otherRead .mis 0)) := by decide
/-- V-IRQ-5 -/
theorem test_irq_fires :
    see (exec .irq (pending 0x7FF 0x7FF { alive .active [0x41] 0 [] with wake := some 0xFFFFFFFF }))
      (fun t => (regs t, wakeStream t, t.uart.ris)) =
      some (⟨.ready, none, 1, .active, 1, 0⟩, [0x80, 0xFF, 0xFF, 0xFF, 0xFF], 0) := by decide
/-- V-IRQ-2 -/
theorem test_irq_transmit_only :
    see (exec .irq (pending 0x20 0x7FF { alive .suspended [0x41] 0 [] with wake := some 7, irqcnt := 1 }))
      (fun t => (t.wake, t.irqcnt, t.trace.drop 1)) =
      some (some 7, 2, [.read .mis 0x09000040 0x20, .write .icr 0x09000044 0x7FF, .rsp .command .ok]) := by decide
/-- V-BEG-5 -/
theorem test_begin :
    see (exec (.beginWrite [0x00]) { ready [] with wake := some 3, irqcnt := 5 }) (fun t => (regs t, t.buf)) =
      some (⟨.ready, some 3, 5, .active, 1, 0⟩, [0x00]) := by decide
/-- V-BEG-2 -/
theorem test_begin_empty :
    see (exec (.beginWrite []) (ready [])) (fun t => (regs t, responseStream t)) =
      some (⟨.ready, none, 0, .complete, 0, 0⟩, [0x00]) := by decide
/-- S3: one byte of three, then full -/
theorem test_drive_suspends :
    see (exec (.drive 7) (alive .active [0x41, 0x42, 0x43] 0 [0, 0, 0x20]))
      (fun t => (regs t, t.uart.txlog, responseStream t)) =
      some (⟨.ready, some 7, 0, .suspended, 3, 1⟩, [0x41], [0x03]) := by decide
/-- V-DRV-6 -/
theorem test_drive_completes :
    see (exec (.drive 7) (alive .active [0xFF] 0 [0, 0x20])) (fun t => (regs t, t.uart.txlog, responseStream t)) =
      some (⟨.ready, none, 0, .complete, 1, 1⟩, [0xFF], [0x04, 0x01, 0x00, 0x00, 0x00]) := by decide
/-- V-DRP-2: no draw can matter -/
theorem test_drop :
    see (exec .drop { alive .complete [1, 2] 2 [] with irqcnt := 1 }) (fun t => (t.opst, t.irqcnt, responseStream t)) =
      some (.none, 1, [0x00]) := by decide
/-- V-DRP-3 -/
theorem test_drop_refused :
    see (exec .drop (ready [])) (fun t => (responseStream t, t.mark)) = some ([0xFF, 0x05], true) := by decide
/-- R45, R90 -/
theorem test_reg_dr :
    see (exec (.dr .read) { ready [] with uart := { mockUart [] with rxq := [0x41, 0x42] } })
      (fun t => (t.uart.rxq, t.trace)) = some ([0x42], [.otherRead .dr 0x41]) := by decide
/-- R46: a read pops nothing of the receive queue -/
theorem test_reg_fr :
    see (exec .fr (ready [0x10, 0])) (fun t => (t.uart.frq, t.trace)) =
      some ([0], [.otherRead .fr 0x10]) := by decide
/-- R47 -/
theorem test_reg_ibrd :
    see (exec (.ibrd (.write 0x1A)) (ready [])) (fun t => (t.uart.ibrd, t.uart.fbrd)) = some (0x1A, 0) := by decide
/-- R48 -/
theorem test_reg_fbrd :
    see (exec (.fbrd (.write 3)) (ready [])) (fun t => (t.uart.ibrd, t.uart.fbrd)) = some (0, 3) := by decide
/-- R50 -/
theorem test_reg_lcrh :
    see (exec (.lcrh (.write 0x70)) (ready []))
      (fun t => ((lineControl t.cfg t.uart.lcrh).wordLength, (lineControl t.cfg t.uart.lcrh).fifoEnable)) =
      some (8, true) := by decide
/-- R51 -/
theorem test_reg_cr :
    see (exec (.cr (.write 0x101)) (ready [])) (fun t => control t.cfg t.uart.cr) =
      some { uartEnable := true, txEnable := true, rxEnable := false } := by decide
/-- R52 -/
theorem test_reg_ifls :
    see (exec (.ifls (.write 0x12)) (ready [])) (fun t => (triggerLevels t.cfg t.uart.ifls)) =
      some { tx := 2, rx := 2 } := by decide
/-- R53 -/
theorem test_reg_imsc :
    see (exec (.imsc (.write 0x10)) (ready [])) (fun t => (t.uart.imsc, t.uart.ris)) = some (0x10, 0) := by decide
/-- R92: nothing but a write of IMSC sets the mock's mask -/
theorem test_mock_mask :
    see (step { pending 0x30 0x10 (ready []) with sched := [.mask 0x20] }) (fun t => (t.uart.imsc, answer t .mis)) =
      some (0x10, 0x10) := by decide
/-- R54 -/
theorem test_reg_ris :
    see (exec .ris (pending 0x30 0x10 (ready []))) (fun t => t.trace) = some [.otherRead .ris 0x30] := by decide
/-- R55, R88 -/
theorem test_reg_mis :
    see (exec .mis (pending 0x30 0x10 (ready []))) (fun t => t.trace) = some [.otherRead .mis 0x10] := by decide
/-- R56, R87 -/
theorem test_reg_icr :
    see (exec (.icr (.write 0x10)) (pending 0x30 0x10 (ready []))) (fun t => t.uart.ris) = some 0x20 := by decide

/-- V-ILL-6: the opcode check comes before the HALTED check -/
theorem test_illegal_halted :
    see (step { State.reset with life := .halted, cmdIn := [0x0B] }) (fun t => (responseStream t, t.cmdIn)) =
      some ([0xFF, 0x01], []) := by decide
/-- V-BEG-4: all six bytes consumed, nothing changed -/
theorem test_refused_consumes :
    see (step { alive .active [0x41, 0x42] 0 [] with cmdIn := [0x07, 1, 0, 0, 0, 0x43] })
      (fun t => (responseStream t, t.cmdIn, t.buf, t.len)) =
      some ([0xFF, 0x04], [], [0x41, 0x42], 2) := by decide
/-- R270: reset leaves HALTED and does not touch the peripheral -/
theorem test_reset_input :
    see (step { ready [8] with life := .halted, irqcnt := 3, wake := some 7, sched := [.reset] })
      (fun t => (regs t, t.uart.frq)) = some (⟨.reset, none, 0, .none, 0, 0⟩, [8]) := by decide
/-- R41 -/
theorem test_status :
    statusPort { alive .suspended [1, 2, 3] 1 [] with wake := some 7, irqcnt := 2 } =
      { life := 1, opst := 2, cur := 1, len := 3, wakeValid := true, wakeHandle := 7, irqcnt := 2 } := by decide
/-- R127, S1 -/
theorem test_text_instr : instrText Config.default (.beginWrite [0x41, 0x0A]) = "BEGIN [0x41, 0x0A]" := by decide
theorem test_text_event :
    eventText Config.default (.write .lcrh 0x0900002C 0x60) = "W 0x2C <- 0x00000060" := by decide
/-- S1: exactly the value written appears on the wire -/
theorem test_wire_log :
    wireLog [.read .fr 0x09000018 8, .write .dr 0x09000000 0x48, .write .icr 0x09000044 0x7FF] = [0x48] := by decide

/-! ### Witnesses: for every obligation with hypotheses, states and operands that meet them

Each theorem is named after its obligation; a statement with several clauses has its clauses' hypotheses one after
another, at the ends of their ranges. -/

/-- A live operation satisfies the invariant. -/
theorem blockInv_alive : BlockInv (alive .active [0x41, 0x42] 1 [0x20]) := by
  constructor <;> decide
theorem blockInv_ready : BlockInv (ready [0]) := by constructor <;> decide
theorem blockInv_halted : BlockInv { State.reset with life := .halted } := by constructor <;> decide

theorem witness_DecodeInvertsEncode :
    Config.default.Wf ∧ Instr.wf Config.default (.construct (2 ^ 64 - 1)) = true ∧
    Instr.wf Config.default (.beginWrite []) = true ∧ Instr.wf Config.default (.icr (.write 0xFFFFFFFF)) = true := by
  decide
theorem witness_DecodedCommandIsItsEncoding :
    Config.default.Wf ∧
    decode Config.default [0x08, 0xFF, 0xFF, 0xFF, 0xFF, 0x09] = .instr (.drive (2 ^ 32 - 1)) [0x09] := by decide
theorem witness_StreamIsItemsAndTail : { Config.default with hw := 8, lenw := 8 }.Wf := by decide
theorem witness_RegisterMapIsTheElevenRows :
    decodeTxn { write := true, off := 0x044, data := 1 } = .ok (.icr (.write 1)) ∧
    (0x044#12 = BitVec.ofNat 12 (regOffset .icr) ∧ (true = true → Reg.icr ≠ .fr ∧ Reg.icr ≠ .ris ∧ Reg.icr ≠ .mis)) ∧
    decodeTxn { write := false, off := 0xFFF, data := 0 } = .error (.noRegister 0xFFF) ∧
    decodeTxn { write := true, off := 0x018, data := 0 } = .error (.readOnly .fr) := by
  refine ⟨rfl, by decide, rfl, rfl⟩

/-- An idle driver with a whole command at its port. -/
def waiting (bytes : List Byte) : State := { ready [0] with cmdIn := bytes }

theorem witness_StepExecutesTheDecodedInstruction :
    (Between (waiting [0x02, 0x48, 0x03]) ∧ (waiting [0x02, 0x48, 0x03]).bus = none ∧
      (waiting [0x02, 0x48, 0x03]).irqReq = 0 ∧
      decode (waiting [0x02, 0x48, 0x03]).cfg (waiting [0x02, 0x48, 0x03]).cmdIn = .instr (.putc 0x48) [0x03] ∧
      (waiting [0x02, 0x48, 0x03]).sched = []) ∧
    { waiting [0x01] with sched := [.block, .irq] }.sched = .block :: [.irq] ∧
    (∃ s : State, s.bus = some { write := false, off := 0x040, data := 0 } ∧
      decodeTxn { write := false, off := 0x040, data := 0 } = .ok .mis ∧ s.sched = []) := by
  refine ⟨by decide, rfl, { ready [] with bus := some { write := false, off := 0x040, data := 0 } }, rfl, rfl, rfl⟩
theorem witness_IllegalOpcodeIsRefusedAndIncompleteWaits :
    (Between (waiting [0x0A, 0x01]) ∧ Alone (waiting [0x0A, 0x01]) ∧ (waiting [0x0A, 0x01]).cmdIn = 0x0A#8 :: [0x01] ∧
      9 < (0x0A#8).toNat ∧ 9 < (0xFF#8).toNat) ∧
    (Between (waiting []) ∧ Alone (waiting []) ∧
      decode (waiting []).cfg (waiting []).cmdIn = .incomplete ∧
      decode (waiting [0x07, 2, 0, 0, 0, 0x41]).cfg (waiting [0x07, 2, 0, 0, 0, 0x41]).cmdIn = .incomplete) ∧
    (Between (waiting [0x08, 1, 2, 3]) ∧ Alone (waiting [0x08, 1, 2, 3]) ∧
      (waiting [0x08, 1, 2, 3]).cmdIn = 0x08#8 :: [1, 2, 3] ∧
      [1#8, 2, 3].length < (waiting [0x08, 1, 2, 3]).cfg.hw / 8) := by decide

/-- A driver with one interrupt request waiting. -/
def requested (upc : Phase) (ipc : EntryPhase) (preempts : Bool) : State :=
  { alive .active [0x41] 0 [0] with
    cfg := { Config.default with irqPreempts := preempts }
    upc := upc
    ipc := ipc
    irqReq := 1 }

theorem witness_InterruptRequestOrder :
    ((requested .d3 .h2 true).sched = [] ∧ (requested .d3 .h2 true).bus = none ∧ 0 < (requested .d3 .h2 true).irqReq ∧
      (requested .d3 .h2 true).ipc ≠ .idle) ∧
    ((requested .idle .idle false).ipc = .idle ∧ (requested .idle .idle false).upc = .idle ∧
      0 < (requested .idle .idle false).irqReq) ∧
    ((requested .d2 .idle true).ipc = .idle ∧ (requested .d2 .idle true).upc ≠ .idle ∧
      (requested .d2 .idle true).cfg.irqPreempts = true) ∧
    ((requested .d2 .idle false).ipc = .idle ∧ (requested .d2 .idle false).upc ≠ .idle ∧
      (requested .d2 .idle false).cfg.irqPreempts = false) ∧
    ({ requested .d2 .idle true with irqReq := 0 }.ipc = .idle ∧ { requested .d2 .idle true with irqReq := 0 }.upc ≠ .idle ∧
      { requested .d2 .idle true with irqReq := 0 }.irqReq = 0) ∧
    ({ requested .d2 .idle true with sched := [.block, .irq] }.sched = .block :: [.irq] ∧
      (requested .d2 .idle true).bus = none) := by decide
theorem witness_ScheduledMovesOfTheEnvironment :
    { ready [] with sched := [.host [0x05], .block] }.sched = .host [0x05] :: [.block] ∧
    { ready [] with sched := [.irq] }.sched = .irq :: [] ∧
    { ready [] with sched := [.raise 0x10] }.sched = .raise 0x10 :: [] ∧
    { ready [] with sched := [.lower 0x10] }.sched = .lower 0x10 :: [] ∧
    ({ State.reset with sched := [.mask 0x10] }.sched = .mask 0x10 :: [] ∧
      { State.reset with sched := [.mask 0x10] }.uart.mode = .oracle) ∧
    ({ ready [] with sched := [.mask 0x10] }.sched = .mask 0x10 :: [] ∧
      { ready [] with sched := [.mask 0x10] }.uart.mode = .mock) ∧
    { ready [] with sched := [.flags [8, 0]] }.sched = .flags [8, 0] :: [] ∧
    { ready [] with sched := [.receive 0x41] }.sched = .receive 0x41 :: [] ∧
    ({ ready [] with sched := [.mockRxq [0x41]] }.sched = .mockRxq [0x41] :: [] ∧
      { ready [] with sched := [.mockRxq [0x41]] }.uart.mode = .mock) ∧
    ({ ready [] with sched := [.mockRis 0x10] }.sched = .mockRis 0x10 :: [] ∧
      { ready [] with sched := [.mockRis 0x10] }.uart.mode = .mock) ∧
    ({ State.reset with sched := [.mockRxq []] }.sched = .mockRxq [] :: [] ∧
      { State.reset with sched := [.mockRxq []] }.uart.mode = .oracle) ∧
    ({ State.reset with sched := [.mockRis 0x10] }.sched = .mockRis 0x10 :: [] ∧
      { State.reset with sched := [.mockRis 0x10] }.uart.mode = .oracle) ∧
    { ready [] with sched := [.other { write := false, off := 0, data := 0 }] }.sched =
      .other { write := false, off := 0, data := 0 } :: [] := by decide
theorem witness_CommandsAdvanceByMicroSteps :
    (advance { ready [8] with upc := .p1, sched := [.block] } =
        .next (stepped { ready [8] with upc := .p1, sched := [.block, .block] }) ∧
      quiet { ready [8] with upc := .p1, sched := [.block] } = false) ∧
    quiet (ready [8]) = true ∧
    entryQuiet { ready [] with ipc := .h1, sched := [.block] } = false ∧ State.reset.life = .reset ∧
    DriverFree (ready [0]) ∧ OperationAlive (alive .suspended [1] 0 []) ∧ (ready []).life = .ready := by
  refine ⟨⟨rfl, by decide⟩, by decide⟩
theorem witness_ResetLeavesTheBlock :
    { ready [] with life := .halted, sched := [.reset, .block] }.sched = .reset :: [.block] := rfl
theorem witness_AdmissionCheck :
    (9 < (0x0A#8).toNat ∧ 9 < (0xFF#8).toNat) ∧
    (isCommand .irq = true ∧ { State.reset with life := .halted }.life = .halted) ∧
    (isCommand .drop = true ∧ State.reset.life = .reset ∧ ∀ base, Instr.drop ≠ .construct base) ∧
    ((ready []).life = .ready ∧ isCommand (.construct 5) = true ∧ ∃ base, Instr.construct 5 = .construct base) ∧
    ((alive .complete [] 0 []).life = .ready ∧ (alive .complete [] 0 []).opst ≠ .none ∧ isCommand .getc = true) ∧
    ((ready []).life = .ready ∧ (ready []).opst = .none ∧ isCommand .drop = true) ∧
    ({ State.reset with irqReq := 1 }.life = .reset ∧ State.reset.life = .reset) ∧
    (isCommand (.construct 0) = true ∧ State.reset.life = .reset ∧
      exec (.construct 0) State.reset = .next (after (.construct 0) State.reset)) ∧
    ((ready [0]).life = .ready ∧ (ready [0]).opst = .none ∧ exec .init (ready [0]) = .next (after .init (ready [0]))) ∧
    ((alive .active [1] 0 [0x20]).life = .ready ∧ (alive .active [1] 0 [0x20]).opst ≠ .none ∧
      exec (.drive 7) (alive .active [1] 0 [0x20]) = .next (after (.drive 7) (alive .active [1] 0 [0x20]))) ∧
    exec .irq (ready []) = .next (after .irq (ready [])) := by
  refine ⟨by decide, by decide, ⟨rfl, rfl, by simp⟩, ⟨rfl, rfl, _, rfl⟩, by decide, by decide, by decide, ⟨rfl, rfl, rfl⟩,
    ⟨rfl, rfl, rfl⟩, ⟨rfl, by decide, rfl⟩, rfl⟩
theorem witness_NullBaseHaltsTheBlock : State.reset.life = .reset ∧ quiet State.reset = true := by decide
theorem witness_HaltedRefusesEverythingUntilReset :
    ({ State.reset with life := .halted }.life = .halted ∧ isCommand (.construct 1) = true) ∧
    (BlockInv { State.reset with life := .halted } ∧
      step { State.reset with life := .halted } = .next (stepped { State.reset with life := .halted }) ∧
      ∀ rest, { State.reset with life := .halted }.sched ≠ .reset :: rest) :=
  ⟨by decide, blockInv_halted, rfl, by intro rest h; simp [State.reset] at h⟩
theorem witness_ConstructBindsTheDriver :
    State.reset.life = .reset ∧ quiet State.reset = true ∧ 1 ≠ 0 ∧ 2 ^ 64 - 1 ≠ 0 := by decide
theorem witness_InitMakesItsSevenWrites :
    DriverFree (ready []) ∧ quiet (ready []) = true ∧ Launch (ready []) ∧
    Launch { ready [] with base := 2 ^ 64 - 0x48 } := by decide
theorem witness_InitConfiguresTheUart :
    (ready []).cfg.Wf ∧ DriverFree (ready []) ∧ quiet (ready []) = true ∧ Launch (ready []) ∧
    exec .init (ready []) = .next (after .init (ready [])) := ⟨by decide, by decide, by decide, by decide, rfl⟩
theorem witness_PutcWritesTheByte :
    DriverFree (ready [0xFFFFFFF7]) ∧ quiet (ready [0xFFFFFFF7]) = true ∧ Launch (ready [0xFFFFFFF7]) ∧
    txBusy (answer (ready [0xFFFFFFF7]) .fr) = false := by decide
theorem witness_GetcReturnsTheLowByte :
    DriverFree (ready [0xFFFFFFEF]) ∧ quiet (ready [0xFFFFFFEF]) = true ∧ Launch (ready [0xFFFFFFEF]) ∧
    rxEmpty (answer (ready [0xFFFFFFEF]) .fr) = false := by decide
theorem witness_RxpendAnswersTheReceiveBit :
    DriverFree (ready []) ∧ quiet (ready []) = true ∧ Launch (ready []) := by decide
theorem witness_AckClearsThePendingSources :
    DriverFree (ready []) ∧ quiet (ready []) = true ∧ Launch (ready []) := by decide
theorem witness_DriverMicroSteps :
    ({ State.reset with upc := .c1 }.upc = .c1 ∧ { State.reset with upc := .c2 }.upc = .c2 ∧
      { State.reset with upc := .c3 }.upc = .c3) ∧
    (Launch { ready [8] with upc := .p1 } ∧ { ready [8] with upc := .p1 }.upc = .p1) ∧
    (Launch { ready [8] with upc := .i1 } ∧ { ready [8] with upc := .i1 }.upc = .i1) ∧
    (Launch { ready [8] with upc := .i7 } ∧ { ready [8] with upc := .i7 }.upc = .i7) ∧
    (Launch { ready [8] with upc := .g1 } ∧ { ready [8] with upc := .g1 }.upc = .g1) ∧
    (Launch { ready [8] with upc := .p2 } ∧ { ready [8] with upc := .p2 }.upc = .p2) ∧
    (Launch { ready [8] with upc := .g2 } ∧ { ready [8] with upc := .g2 }.upc = .g2) ∧
    (Launch { ready [8] with upc := .i8 } ∧ { ready [8] with upc := .i8 }.upc = .i8) ∧
    (Launch { ready [8] with upc := .q1 } ∧ { ready [8] with upc := .q1 }.upc = .q1) ∧
    (Launch { ready [8] with upc := .a1 } ∧ { ready [8] with upc := .a1 }.upc = .a1) := by decide

/-- A spin on the mock. -/
def spin (p : Phase) (v : Word) : State := { ready [v] with upc := p }

theorem witness_HungSpinHoldsEverythingBack :
    (Launch (spin .p1 8) ∧ (spin .p1 8).sched = [] ∧ (spin .p1 8).bus = none ∧ (spin .p1 8).ipc = .idle ∧
      (spin .p1 8).cfg.irqPreempts = false ∧ (spin .p1 8).uart.mode = .mock ∧ (spin .p1 8).uart.frq = [8] ∧
      ((spin .p1 8).upc = .p1 ∧ txBusy 8 = true)) ∧
    ((spin .d3 8).upc = .d3 ∧ txBusy 8 = true) ∧ ((spin .g1 0x10).upc = .g1 ∧ rxEmpty 0x10 = true) := by decide

theorem witness_StatusReadsClearAfterAcknowledge :
    (ready []).cfg.Wf ∧ (ready []).upc = .idle ∧ (ready []).ipc = .idle ∧
    (exec .ack (ready []) = .next (after .ack (ready [])) ∧ DriverFree (ready []) ∧ (after .ack (ready [])).upc = .idle) ∧
    (exec .irq (ready []) = .next (after .irq (ready [])) ∧ (ready []).life = .ready ∧
      (after .irq (ready [])).ipc = .idle) ∧
    (after .ack (pending 0x7FF 0x7FF (ready []))).uart.imsc &&&
      ~~~ (after .ack (pending 0x7FF 0x7FF (ready []))).cfg.clearAll = 0#32 :=
  ⟨by decide, rfl, rfl, ⟨rfl, by decide, rfl⟩, ⟨rfl, rfl, by decide⟩, by decide⟩
theorem witness_PendingSourcesClearAndRise :
    { ready [] with sched := [.raise 0x10] }.sched = .raise 0x10 :: [] ∧
    step { ready [] with sched := [.raise 0x10] } = .next (stepped { ready [] with sched := [.raise 0x10] }) ∧
    { ready [] with sched := [.raise 0x10] }.uart.ris.getLsbD 4 = false ∧
    (stepped { ready [] with sched := [.raise 0x10] }).uart.ris.getLsbD 4 = true := ⟨rfl, rfl, by decide, by decide⟩
theorem witness_RegisterRowReads :
    (Instr.dr .read, Reg.dr) ∈ [(Instr.dr .read, Reg.dr), (.fr, .fr), (.icr .read, .icr)] := by decide
theorem witness_ReadsAnswerThePeripheral :
    (ready []).uart.mode = .mock ∧ (ready [8, 0]).uart.frq = 8 :: [0] ∧
    { ready [] with uart := { mockUart [] with rxq := [0x41] } }.uart.rxq = 0x41 :: [] ∧
    (ready []).uart.rxq = [] ∧ ((ready [8]).uart.frq = [8] ∧ exec .fr (ready [8]) = .next (after .fr (ready [8]))) ∧
    exec (.ibrd (.write 0x1A)) (ready []) = .next (after (.ibrd (.write 0x1A)) (ready [])) ∧
    exec (.fbrd (.write 3)) (ready []) = .next (after (.fbrd (.write 3)) (ready [])) ∧
    exec (.lcrh (.write 0x60)) (ready []) = .next (after (.lcrh (.write 0x60)) (ready [])) ∧
    exec (.cr (.write 0x301)) (ready []) = .next (after (.cr (.write 0x301)) (ready [])) ∧
    exec (.ifls (.write 0x12)) (ready []) = .next (after (.ifls (.write 0x12)) (ready [])) ∧
    exec (.imsc (.write 0x10)) State.reset = .next (after (.imsc (.write 0x10)) State.reset) ∧
    exec (.icr (.write 0x7FF)) (ready []) = .next (after (.icr (.write 0x7FF)) (ready [])) ∧
    exec (.dr (.write 1)) (ready []) = .next (after (.dr (.write 1)) (ready [])) ∧
    exec (.dr (.write 2)) (after (.dr (.write 1)) (ready [])) =
      .next (after (.dr (.write 2)) (after (.dr (.write 1)) (ready []))) :=
  ⟨rfl, rfl, rfl, rfl, ⟨rfl, rfl⟩, rfl, rfl, rfl, rfl, rfl, rfl, rfl, rfl, rfl⟩

theorem witness_BeginCapturesTheBuffer :
    DriverFree { ready [] with wake := some 3, irqcnt := 5 } ∧ quiet { ready [] with wake := some 3, irqcnt := 5 } = true := by
  decide

/-- A DRIVE in progress. -/
def driving (p : Phase) (bytes : List Byte) (cur : Nat) (frq : List Word) : State :=
  { alive .active bytes cur frq with upc := p }

theorem witness_DriveMicroSteps :
    ({ ready [] with upc := .b1 }.upc = .b1 ∧ (driving .x1 [1, 2] 1 []).upc = .x1) ∧
    ((driving .d1 [1, 2] 2 []).upc = .d1 ∧ (driving .d1 [1, 2] 2 []).len ≤ (driving .d1 [1, 2] 2 []).cur) ∧
    ((driving .d1 [1, 2] 1 []).upc = .d1 ∧ (driving .d1 [1, 2] 1 []).cur < (driving .d1 [1, 2] 1 []).len) ∧
    (driving .ds [1, 2] 1 []).upc = .ds ∧ (driving .d5 [1, 2] 1 []).upc = .d5 ∧
    (Launch (driving .d2 [1, 2] 1 [0x20]) ∧ (driving .d2 [1, 2] 1 [0x20]).upc = .d2) ∧
    (Launch (driving .d3 [1, 2] 1 [8]) ∧ (driving .d3 [1, 2] 1 [8]).upc = .d3) ∧
    (Launch (driving .d4 [1, 2] 1 [8]) ∧ (driving .d4 [1, 2] 1 [8]).upc = .d4 ∧
      (driving .d4 [1, 2] 1 [8]).buf[(driving .d4 [1, 2] 1 [8]).cur]? = some 2) := by decide
theorem witness_DriveOfACompleteOperationIsIdempotent :
    (alive .complete [1, 2] 2 []).life = .ready ∧ (alive .complete [1, 2] 2 []).opst = .complete ∧
    (alive .complete [1, 2] 2 []).cur = (alive .complete [1, 2] 2 []).len ∧
    (alive .complete [1, 2] 2 []).upc = .idle ∧ quiet (alive .complete [1, 2] 2 []) = true := by decide
theorem witness_DriveSuspendsOnAFullFifo :
    OperationAlive (alive .active [1] 0 [0x28]) ∧ quiet (alive .active [1] 0 [0x28]) = true ∧
    Launch (alive .active [1] 0 [0x28]) ∧ (alive .active [1] 0 [0x28]).cur < (alive .active [1] 0 [0x28]).len ∧
    txFull (answer (alive .active [1] 0 [0x28]) .fr) = true := by decide
theorem witness_DriveSendsAChunkThenSuspends :
    OperationAlive (alive .suspended [1, 2, 3] 1 [0, 0, 0x20]) ∧ quiet (alive .suspended [1, 2, 3] 1 [0, 0, 0x20]) = true ∧
    Launch (alive .suspended [1, 2, 3] 1 [0, 0, 0x20]) ∧
    (alive .suspended [1, 2, 3] 1 [0, 0, 0x20]).len = (alive .suspended [1, 2, 3] 1 [0, 0, 0x20]).buf.length ∧
    (alive .suspended [1, 2, 3] 1 [0, 0, 0x20]).cur + 1 < (alive .suspended [1, 2, 3] 1 [0, 0, 0x20]).len ∧
    (alive .suspended [1, 2, 3] 1 [0, 0, 0x20]).uart.frq = [0, 0] ++ 0x20 :: [] ∧
    [0#32, 0].length = 2 * 1 ∧ letsSend 1 [0, 0] = true ∧ txFull 0x20 = true := by decide
theorem witness_DriveSendsTheRestThenCompletes :
    OperationAlive (alive .active [1, 2] 0 [0, 0, 0, 0x20]) ∧ quiet (alive .active [1, 2] 0 [0, 0, 0, 0x20]) = true ∧
    Launch (alive .active [1, 2] 0 [0, 0, 0, 0x20]) ∧
    (alive .active [1, 2] 0 [0, 0, 0, 0x20]).len = (alive .active [1, 2] 0 [0, 0, 0, 0x20]).buf.length ∧
    (alive .active [1, 2] 0 [0, 0, 0, 0x20]).cur + 2 = (alive .active [1, 2] 0 [0, 0, 0, 0x20]).len ∧
    (alive .active [1, 2] 0 [0, 0, 0, 0x20]).uart.frq = [0, 0, 0, 0x20] ++ [] ∧
    [0#32, 0, 0, 0x20].length = 2 * 2 ∧ letsSend 2 [0, 0, 0, 0x20] = true := by decide
theorem witness_DriveIgnoresActiveOrSuspended :
    quiet (alive .active [1] 0 [0x20]) = true ∧ (alive .active [1] 0 [0x20]).life = .ready ∧
    (alive .active [1] 0 [0x20]).cur < (alive .active [1] 0 [0x20]).len := by decide
theorem witness_DriveOutcomes :
    (OperationAlive (alive .active [1] 0 [0x20]) ∧ (alive .active [1] 0 [0x20]).upc = .idle ∧
      exec (.drive 7) (alive .active [1] 0 [0x20]) = .next (after (.drive 7) (alive .active [1] 0 [0x20])) ∧
      exec (.drive 7) (alive .active [1] 0 [8]) = .next (after (.drive 7) (alive .active [1] 0 [8]))) ∧
    (OperationAlive (driving .d3 [1] 0 [8]) ∧ labelOf (.drive 0) (driving .d3 [1] 0 [8]).upc = true ∧
      (driving .d3 [1] 0 [8]).scr.h = 0 ∧ (driving .d3 [1] 0 [8]).cur < (driving .d3 [1] 0 [8]).len ∧
      advance (driving .d3 [1] 0 [8]) = .next (stepped (driving .d3 [1] 0 [8]))) :=
  ⟨⟨by decide, rfl, rfl, rfl⟩, by decide, rfl, rfl, by decide, rfl⟩
theorem witness_DropFreesTheDriver :
    OperationAlive { alive .suspended [1, 2, 3] 1 [] with wake := some 7 } ∧
    quiet { alive .suspended [1, 2, 3] 1 [] with wake := some 7 } = true := by decide
theorem witness_HandlesAreOpaque :
    OperationAlive (alive .active [1] 0 [0x20]) ∧ (alive .active [1] 0 [0x20]).upc = .idle ∧
    exec (.drive 7) (alive .active [1] 0 [0x20]) = .next (after (.drive 7) (alive .active [1] 0 [0x20])) ∧
    (after (.drive 7) (alive .active [1] 0 [0x20])).opst = .suspended ∧
    ((driving .d2 [1] 0 [0x20]).scr.h = 0 ∧
      advance (driving .d2 [1] 0 [0x20]) = .next (stepped (driving .d2 [1] 0 [0x20]))) :=
  ⟨by decide, rfl, rfl, by decide, rfl, rfl⟩

theorem witness_IrqCountsReadsFiresClears :
    (ready []).life = .ready ∧ (ready []).ipc = .idle ∧ entryQuiet (ready []) = true ∧ Launch (ready []) := by decide
theorem witness_IrqCountsOncePerInvocation :
    { ready [] with ipc := .h1 }.ipc = .h1 ∧
    ((ready []).life = .ready ∧ startIrq .command (ready []) = .next (after .irq (ready []))) ∧
    ((ready []).life = .ready ∧ (ready []).ipc = .idle ∧ entryQuiet (ready []) = true ∧ Launch (ready [])) :=
  ⟨rfl, ⟨rfl, rfl⟩, by decide⟩
theorem witness_FireEmitsTheRegisteredHandle :
    ({ ready [] with ipc := .h3, wake := some 7 }.ipc = .h3 ∧ { ready [] with ipc := .h3, wake := some 7 }.wake = some 7) ∧
    ({ ready [] with ipc := .h3 }.ipc = .h3 ∧ { ready [] with ipc := .h3 }.wake = none) ∧
    (Launch { ready [] with ipc := .h2 } ∧ { ready [] with ipc := .h2 }.ipc = .h2) ∧
    (Launch { ready [] with ipc := .h4, irqPort := .request } ∧ { ready [] with ipc := .h4, irqPort := .request }.ipc = .h4) := by
  decide
theorem witness_IrqLeavesTheWriteOperation :
    startIrq .command (alive .active [1] 0 []) = .next (after .irq (alive .active [1] 0 [])) ∧
    advanceEntry (requested .d3 .h2 true) = .next (stepped (requested .d3 .h2 true)) := ⟨rfl, rfl⟩
theorem witness_OnlyTheReceiveSourceWakes :
    (pending 0x7EF 0x7FF (ready [])).cfg.AsBuilt ∧ (pending 0x7EF 0x7FF (ready [])).cfg.Wf ∧
    (pending 0x7EF 0x7FF (ready [])).ipc = .idle ∧ (pending 0x7EF 0x7FF (ready [])).life = .ready ∧
    (pending 0x7EF 0x7FF (ready [])).uart.ris.getLsbD (pending 0x7EF 0x7FF (ready [])).cfg.rxBit = false ∧
    exec .irq (pending 0x7EF 0x7FF (ready [])) = .next (after .irq (pending 0x7EF 0x7FF (ready []))) ∧
    entryQuiet (pending 0x7EF 0x7FF (ready [])) = true :=
  ⟨by decide, by decide, rfl, rfl, by decide, rfl, by decide⟩
theorem witness_PreemptedDriveLosesTheWake :
    (requested .ds .idle true).cfg.irqPreempts = true ∧ (requested .ds .idle true).sched = [] ∧
    (requested .ds .idle true).bus = none ∧ (requested .ds .idle true).irqReq = 1 ∧
    (requested .ds .idle true).ipc = .idle ∧ (requested .ds .idle true).life = .ready ∧
    (requested .ds .idle true).upc = .ds ∧ (requested .ds .idle true).wake = none ∧
    Launch (requested .ds .idle true) := by decide

/-- An operation whose FIFO stays full while the receive source is pending. -/
def stillFull : State := pending 0x10 0x7FF (alive .active [1, 2] 0 [0x20])

theorem witness_WakeThenRedriveMaySuspendAgain :
    OperationAlive stillFull ∧ stillFull.upc = .idle ∧ stillFull.ipc = .idle ∧ Alone stillFull ∧ Launch stillFull ∧
    stillFull.cur < stillFull.len ∧ stillFull.uart.mode = .mock ∧ stillFull.uart.frq = [0x20] ∧ txFull 0x20 = true ∧
    stillFull.cfg.wakeFireClears = true ∧
    wakeCondition stillFull.cfg (stillFull.uart.ris &&& stillFull.uart.imsc) = true := by decide
theorem witness_UnlaunchableBaseRefusesEveryAccess :
    ({ ready [] with base := 0x09000001 }.base % 4 ≠ 0 ∧ quiet { ready [] with base := 0x09000001 } = true ∧
      DriverFree { ready [] with base := 0x09000001 } ∧ { ready [] with base := 0x09000001 }.ipc = .idle) ∧
    ({ alive .active [1] 0 [] with base := 2 ^ 64 - 0x44 }.base % 4 = 0 ∧
      2 ^ { alive .active [1] 0 [] with base := 2 ^ 64 - 0x44 }.cfg.aw ≤
        { alive .active [1] 0 [] with base := 2 ^ 64 - 0x44 }.base + 0x47 ∧
      quiet { alive .active [1] 0 [] with base := 2 ^ 64 - 0x44 } = true ∧
      OperationAlive { alive .active [1] 0 [] with base := 2 ^ 64 - 0x44 } ∧
      { alive .active [1] 0 [] with base := 2 ^ 64 - 0x44 }.cur <
        { alive .active [1] 0 [] with base := 2 ^ 64 - 0x44 }.len) := by decide

theorem witness_FrameOfTheDriverCommands :
    exec .init (ready [0]) = .next (after .init (ready [0])) ∧
    exec (.putc 0x41) (ready [8]) = .next (after (.putc 0x41) (ready [8])) ∧
    exec .getc (ready [0]) = .next (after .getc (ready [0])) ∧
    exec .rxpend (ready [0]) = .next (after .rxpend (ready [0])) ∧
    exec .ack (ready [0]) = .next (after .ack (ready [0])) ∧
    exec (.beginWrite [1]) (ready [0]) = .next (after (.beginWrite [1]) (ready [0])) ∧
    StepOf (.putc 0x41) (spin .p1 8) (stepped (spin .p1 8)) := ⟨rfl, rfl, rfl, rfl, rfl, rfl, .inr ⟨rfl, rfl⟩⟩
theorem witness_FrameOfDriveAndDrop :
    exec (.drive 7) (alive .active [1] 0 [0]) = .next (after (.drive 7) (alive .active [1] 0 [0])) ∧
    exec .drop (alive .active [1] 0 [0]) = .next (after .drop (alive .active [1] 0 [0])) ∧
    StepOf (.drive 7) (driving .d5 [1] 0 [0]) (stepped (driving .d5 [1] 0 [0])) ∧
    StepOf .drop (driving .x1 [1] 0 [0]) (stepped (driving .x1 [1] 0 [0])) :=
  ⟨rfl, rfl, .inr ⟨rfl, rfl⟩, .inr ⟨rfl, rfl⟩⟩
theorem witness_ResponsesEachCommandMayGive :
    isCommand .getc = true ∧ exec .getc (ready [0]) = .next (after .getc (ready [0])) ∧
    (after .getc (ready [0])).rspOut = (ready [0]).rspOut ++ [.byte 0] ∧
    StepOf .getc (spin .g1 0) (stepped (spin .g1 0)) := ⟨rfl, rfl, by decide, .inr ⟨rfl, rfl⟩⟩
theorem witness_PortsShowTheirBytes :
    Config.default.Wf ∧ (0 < 2 ^ Config.default.lenw ∧ 2 ^ 32 - 1 < 2 ^ Config.default.lenw) ∧
    (0 < 2 ^ Config.default.hw ∧ 2 ^ 32 - 1 < 2 ^ Config.default.hw) ∧
    (∀ n, Response.complete n ∈ { ready [] with rspOut := [.complete 5] }.rspOut ++ (ready []).rspOut →
      n < 2 ^ Config.default.lenw) ∧
    responseStream { ready [] with rspOut := [.complete 5] } =
      responseStream { ready [0] with rspOut := [.complete 5] } ∧
    { ready [] with life := .halted }.life = .halted ∧ (alive .complete [] 0 []).opst = .complete ∧
    (ready []).wake = none ∧ { ready [] with wake := some 7 }.wake = some 7 := by
  refine ⟨by decide, by decide, by decide, ?_, rfl, rfl, rfl, rfl, rfl⟩
  intro n h
  simp [ready, State.reset] at h
  subst h
  decide

theorem witness_ResetSatisfiesInv :
    BlockInv (ready [0]) ∧ Between (ready [0]) ∧ (ready [0]).life = .ready := ⟨blockInv_ready, by decide, rfl⟩
theorem witness_NoStepFaults : BlockInv (alive .active [0x41, 0x42] 1 [0x20]) := blockInv_alive
theorem witness_StepMakesListedAccessesOnly :
    (waiting [0x06]).trace.all listedAccess = true ∧ step (waiting [0x06]) = .next (stepped (waiting [0x06])) :=
  ⟨by decide, rfl⟩
/-- The hypotheses of the access matrix on one command. -/
abbrev CompletesInItsStep (i : Instr) (s : State) : Prop :=
  quiet s = true ∧ s.upc = .idle ∧ s.ipc = .idle ∧ s.mark = false ∧ (after i s).upc = .idle ∧
  (after i s).mark = false

theorem witness_AccessMatrixOfTheCommands :
    (CompletesInItsStep (.construct 1) State.reset ∧
      exec (.construct 1) State.reset = .next (after (.construct 1) State.reset)) ∧
    (CompletesInItsStep .init (ready [0]) ∧ exec .init (ready [0]) = .next (after .init (ready [0]))) ∧
    (CompletesInItsStep (.putc 1) (ready [0]) ∧ exec (.putc 1) (ready [0]) = .next (after (.putc 1) (ready [0]))) ∧
    (CompletesInItsStep .getc (ready [0]) ∧ exec .getc (ready [0]) = .next (after .getc (ready [0]))) ∧
    (CompletesInItsStep .rxpend (ready [0]) ∧ exec .rxpend (ready [0]) = .next (after .rxpend (ready [0]))) ∧
    (CompletesInItsStep .ack (ready [0]) ∧ exec .ack (ready [0]) = .next (after .ack (ready [0]))) ∧
    (CompletesInItsStep .irq (ready [0]) ∧ exec .irq (ready [0]) = .next (after .irq (ready [0]))) :=
  ⟨⟨by decide, rfl⟩, ⟨by decide, rfl⟩, ⟨by decide, rfl⟩, ⟨by decide, rfl⟩, ⟨by decide, rfl⟩, ⟨by decide, rfl⟩,
    by decide, rfl⟩
theorem blockInv_waiting : BlockInv (waiting [0x06]) := by constructor <;> decide
theorem blockInv_first : BlockInv { State.reset with cmdIn := [0, 4, 0, 0, 0, 0, 0, 0, 0] } := by
  constructor <;> decide
theorem witness_BaseIsBoundOnce :
    (BlockInv (waiting [0x06]) ∧ step (waiting [0x06]) = .next (stepped (waiting [0x06])) ∧
      (waiting [0x06]).life = .ready ∧ ∀ rest, (waiting [0x06]).sched ≠ .reset :: rest) ∧
    (BlockInv { State.reset with cmdIn := [0, 4, 0, 0, 0, 0, 0, 0, 0] } ∧
      step { State.reset with cmdIn := [0, 4, 0, 0, 0, 0, 0, 0, 0] } =
        .next (stepped { State.reset with cmdIn := [0, 4, 0, 0, 0, 0, 0, 0, 0] }) ∧
      { State.reset with cmdIn := [0, 4, 0, 0, 0, 0, 0, 0, 0] }.life ≠ .ready ∧
      (stepped { State.reset with cmdIn := [0, 4, 0, 0, 0, 0, 0, 0, 0] }).life = .ready) :=
  ⟨⟨blockInv_waiting, rfl, rfl, by intro rest h; simp [waiting, ready, State.reset] at h⟩,
    blockInv_first, rfl, by decide, by decide⟩
theorem witness_TraceAndPortsOnlyGrow : step (waiting [0x01]) = .next (stepped (waiting [0x01])) := rfl
theorem witness_WakeCellLaws :
    step { alive .active [1] 0 [0x20] with cmdIn := [0x08, 7, 0, 0, 0] } =
      .next (stepped { alive .active [1] 0 [0x20] with cmdIn := [0x08, 7, 0, 0, 0] }) ∧
    (stepped { alive .active [1] 0 [0x20] with cmdIn := [0x08, 7, 0, 0, 0] }).wake = some 7 ∧
    (micro (driving .ds [1] 0 []) = .next (stepped (driving .ds [1] 0 [])) ∧ (driving .ds [1] 0 []).upc = .ds) ∧
    (micro (driving .x1 [1] 0 []) = .next (stepped (driving .x1 [1] 0 [])) ∧ (driving .x1 [1] 0 []).upc = .x1) ∧
    micro { State.reset with upc := .c3 } = .next (stepped { State.reset with upc := .c3 }) ∧
    micro (driving .d5 [1] 0 [0]) = .next { driving .d1 [1] 1 [0] with ghost := (driving .d5 [1] 0 [0]).ghost } ∧
    (entryMicro { ready [] with ipc := .h3, wake := some 7, sched := [.block] } =
        .next (stepped { ready [] with ipc := .h3, wake := some 7, sched := [.block, .block] }) ∧
      { ready [] with ipc := .h3, wake := some 7 }.ipc = .h3 ∧ { ready [] with ipc := .h2 }.ipc ≠ .h3) ∧
    Move.irq ≠ .reset ∧ (isCommand .fr = false ∧ exec .fr (ready []) = .next (after .fr (ready []))) := by
  refine ⟨rfl, by decide, ⟨rfl, rfl⟩, ⟨rfl, rfl⟩, rfl, rfl, ⟨rfl, rfl, by decide⟩, by decide, rfl, rfl⟩

/-- The last byte of an operation, about to be sent. -/
def lastByte : State := { alive .active [0x41, 0x42] 1 [0] with cmdIn := [0x08, 7, 0, 0, 0] }

theorem blockInv_lastByte : BlockInv lastByte := by constructor <;> decide
theorem witness_StepKeepsInv : BlockInv lastByte ∧ step lastByte = .next (stepped lastByte) :=
  ⟨blockInv_lastByte, rfl⟩
theorem witness_CompletionProperty :
    BlockInv lastByte ∧ step lastByte = .next (stepped lastByte) ∧
    (stepped lastByte).rspOut = lastByte.rspOut ++ [.complete 2] := ⟨blockInv_lastByte, rfl, by decide⟩
theorem witness_OperationWritesAreTheTraces :
    BlockInv lastByte ∧ lastByte.opst ≠ .none ∧ step lastByte = .next (stepped lastByte) ∧
    (stepped lastByte).opst ≠ .none := ⟨blockInv_lastByte, by decide, rfl, by decide⟩

end Sys2Proof.Tests
end

section
/-! Scope (00_scope.md): what a scheduled move of an outside agent does, how a step is made of micro-steps, and what
INIT leaves in the peripheral. -/

namespace Sys2Proof.Machine

/-! ### The moves of the outside agents (R22) -/

/-- A scheduled move that is not the block's is all the step does. -/
theorem step_of_scheduled {s : State} {m : Move} {rest : List Move} (h : s.sched = m :: rest) (hm : m ≠ .block) :
    step s = .next (applyMove m { s with sched := rest }) := by
  unfold step
  rw [h]
  cases m with
  | block => exact absurd rfl hm
  | _ => rfl

theorem oracleOnly_of_oracle {u : Uart} (f : Uart → Uart) (h : u.mode = .oracle) : oracleOnly f u = f u := by
  simp only [oracleOnly, h]

theorem oracleOnly_of_mock {u : Uart} (f : Uart → Uart) (h : u.mode = .mock) : oracleOnly f u = u := by
  simp only [oracleOnly, h]

theorem scriptMock_of_mock {u : Uart} (f : Uart → Uart) (h : u.mode = .mock) : scriptMock f u = f u := by
  simp only [scriptMock, h]

theorem scriptMock_of_oracle {u : Uart} (f : Uart → Uart) (h : u.mode = .oracle) : scriptMock f u = u := by
  simp only [scriptMock, h]

/-- Settles O9: the step is the scheduled move, and the moves of one mode only do nothing in the other. -/
theorem scheduledMovesOfTheEnvironment : Obligations.ScheduledMovesOfTheEnvironment := by
  intro s rest
  refine ⟨fun bytes h => ?host, fun h => ?irq, fun v h => ?raise, fun v h => ?lower, fun v h hm => ?maskOracle,
    fun v h hm => ?maskMock, fun fs h => ?flags, fun w h => ?receive, fun ws h hm => ?rxqMock, fun v h hm => ?risMock,
    fun ws h hm => ?rxqOracle, fun v h hm => ?risOracle, fun x h => ?other⟩
  all_goals rw [step_of_scheduled h (by simp)]
  case host | irq | raise | lower | flags | receive | other => rfl
  case maskOracle => simp only [applyMove, oracleOnly_of_oracle _ hm]
  case maskMock => simp only [applyMove, oracleOnly_of_mock _ hm]
  case rxqMock | risMock => simp only [applyMove, scriptMock_of_mock _ hm]
  case rxqOracle | risOracle => simp only [applyMove, scriptMock_of_oracle _ hm]

/-! ### Steps as micro-steps (R20) -/

/-- A run of micro-steps that answers a next state made some number of them, one at least when its budget is not 0. -/
theorem runMicros_eq_microTimes {n : Nat} {s t : State} (h : runMicros n s = .next t) :
    ∃ k, (0 < n → 0 < k) ∧ microTimes k s = .next t := by
  induction n generalizing s with
  | zero => exact ⟨0, id, h⟩
  | succ n ih =>
    obtain ⟨u, hu, h⟩ := andThen_eq_next h
    have first : ∀ k, microTimes (k + 1) s = microTimes k u := fun k => by simp only [microTimes, hu, andThen_next]
    split at h
    · exact ⟨1, fun _ => Nat.one_pos, (first 0).trans h⟩
    · obtain ⟨k, -, hk⟩ := ih h
      exact ⟨k + 1, fun _ => k.succ_pos, (first k).trans hk⟩

theorem microTimes_one (s : State) : microTimes 1 s = micro s := by
  simp only [microTimes]
  cases micro s <;> rfl

/-- One step of a foreground command is one micro-step or several. -/
theorem advance_eq_microTimes {s t : State} (h : advance s = .next t) : ∃ k, 0 < k ∧ microTimes k s = .next t := by
  cases hq : quiet s with
  | false => exact ⟨1, Nat.one_pos, by rw [microTimes_one, ← advance_of_not_quiet hq, h]⟩
  | true =>
    rw [advance_of_quiet hq] at h
    obtain ⟨k, hpos, hk⟩ := runMicros_eq_microTimes h
    exact ⟨k, hpos (Nat.succ_pos _), hk⟩

/-- Where another agent may move, a step of the entry is one micro-step. -/
theorem advanceEntry_of_not_quiet {s : State} (h : entryQuiet s = false) : advanceEntry s = entryMicro s := by
  simp [advanceEntry, h]

/-- An admitted foreground command is accepted at its first label with its operands latched. -/
theorem exec_of_admitted {i : Instr} {p : Phase} {s : State} (hp : firstLabel i = some p) (ha : Admitted i s) :
    exec i s = accept { latched i (logCmd i s) with upc := p } := by
  obtain ⟨check, hexec, hcheck⟩ := exec_foreground hp s
  rw [hexec, hcheck.mpr ha, startCommand_admitted]

/-- An admitted IRQ is the entry's advance from H1. -/
theorem execIrq_of_ready {s : State} (h : s.life = .ready) :
    exec .irq s = advanceEntry (takeIrq .command (logCmd .irq s)) := by
  simp only [exec, execIrq, startIrq, needReady_eq_none.mpr h]

/-- Settles O10: a quiet step is a run of micro-steps, any other step one; admission leads to the acceptance. -/
theorem commandsAdvanceByMicroSteps : Obligations.CommandsAdvanceByMicroSteps := by
  refine ⟨fun s t h => ⟨fun hq => ?_, advance_eq_microTimes h⟩, fun s => advanceEntry_of_not_quiet,
    fun s => ⟨accept_of_quiet, accept_of_not_quiet⟩, fun base s h => exec_of_admitted rfl h,
    fun s h => ⟨exec_of_admitted rfl h, fun b => exec_of_admitted rfl h, exec_of_admitted rfl h,
      exec_of_admitted rfl h, exec_of_admitted rfl h, fun bytes => exec_of_admitted rfl h⟩,
    fun s h => ⟨fun handle => exec_of_admitted rfl h, exec_of_admitted rfl h⟩, fun s => execIrq_of_ready⟩
  rw [← advance_of_not_quiet hq, h]

/-! ### INIT (R14) -/

/-- The state after the block's writes ws, at label p. -/
def written (s : State) (p : Phase) (ws : List (Reg × Word)) : State :=
  { s with
    upc := p
    uart := ws.foldl (fun u w => uartAfterWrite u w.2 w.1) s.uart
    trace := s.trace ++ ws.map fun w => .write w.1 (regAddr s w.1) w.2 }

theorem written_nil (s : State) (p : Phase) : written s p [] = { s with upc := p } := by
  simp only [written, List.foldl_nil, List.map_nil, List.append_nil]

/-- One more write, then the next label. -/
theorem afterWrite_written (s : State) (p q : Phase) (ws : List (Reg × Word)) (r : Reg) (v : Word) :
    { afterWrite (written s p ws) r v with upc := q } = written s q (ws ++ [(r, v)]) := by
  simp only [written, afterWrite, regAddr, List.foldl_append, List.foldl_cons, List.foldl_nil, List.map_append,
    List.map_cons, List.map_nil, List.append_assoc]

/-- A write of INIT inside a quiet step: the run goes on at the next label. -/
theorem runMicros_written {n : Nat} {s : State} {p q : Phase} {ws : List (Reg × Word)} {r : Reg} {v : Word}
    (hl : Launch s) (hm : micro (written s p ws) = microInit r v q (written s p ws)) (hq : q ≠ .idle) (hp : q ≠ p) :
    runMicros (n + 1) (written s p ws) = runMicros n (written s q (ws ++ [(r, v)])) := by
  rw [← afterWrite_written s p]
  exact runMicros_go (hm.trans (microInit_next.mpr ⟨hl, rfl⟩)) hq hp

/-- The seven writes of INIT in their order (R153 of 40_driver_ops.md). -/
def initWrites (c : Config) : List (Reg × Word) :=
  [(.cr, c.crOffVal), (.ibrd, c.ibrdVal), (.fbrd, c.fbrdVal), (.lcrh, c.lcrhVal), (.ifls, c.iflsVal),
   (.imsc, c.imscAll), (.cr, c.crOnVal)]

/-- A run from I1 makes the seven writes. -/
theorem runMicros_i1 (n : Nat) {s : State} (hl : Launch s) :
    runMicros (n + 7) { s with upc := .i1 } = runMicros n (written s .i8 (initWrites s.cfg)) := by
  rw [← written_nil]
  iterate 7 refine Eq.trans (runMicros_written hl rfl (by decide) (by decide)) ?_
  rfl

/-- INIT in a quiet state makes its seven writes, marks the block initialised and responds OK. -/
theorem exec_init {s : State} (hd : DriverFree s) (hq : quiet s = true) (hl : Launch s) :
    exec .init s = .next (respond .ok
      { written (logCmd .init s) .i8 (initWrites s.cfg) with ghost := { s.ghost with inited := true } }) :=
  calc exec .init s
    _ = accept { logCmd .init s with upc := .i1 } := exec_of_admitted (i := .init) rfl hd
    _ = runMicros (5 * (s.len - s.cur) + 2 + 7) { logCmd .init s with upc := .i1 } :=
      Eq.trans (accept_of_quiet hq) (advance_of_quiet hq)
    _ = runMicros (5 * (s.len - s.cur) + 2) (written (logCmd .init s) .i8 (initWrites s.cfg)) := runMicros_i1 _ hl
    _ = _ := runMicros_stop rfl (.inl rfl)

/-- A WLEN field of two ones is word length 8 (R50 of 10_state.md). -/
theorem lineControl_wordLength_of_ones {c : Config} {w : Word} (h : (w >>> c.wlenBit) &&& 3#32 = 3#32) :
    (lineControl c w).wordLength = 8 := by
  have hfield : field w c.wlenBit 2 = 3 := by
    have hnat := congrArg BitVec.toNat h
    rw [BitVec.toNat_and] at hnat
    exact (Nat.and_two_pow_sub_one_eq_mod _ 2).symm.trans hnat
  simp only [lineControl, hfield, wordLengthOf]

/-- A word that holds all of the implemented sources' bits has each of them set. -/
theorem getLsbD_of_and_sourceBits {c : Config} {w : Word} {j : Nat} (hn : c.nIrq ≤ 32)
    (h : w &&& c.sourceBits = c.sourceBits) (hj : j < c.nIrq) : w.getLsbD j = true := by
  have hbit := sourceBits_getLsbD hn hj
  rw [← h, BitVec.getLsbD_and, Bool.and_eq_true] at hbit
  exact hbit.1

/-- Settles O17: INIT leaves its constants in the peripheral, and R14's constraints on them give each field. -/
theorem initConfiguresTheUart : Obligations.InitConfiguresTheUart := by
  intro s t hwf hd hq hl hexec
  obtain ⟨-, -, -, -, ⟨hnIrq, -, -⟩, -, hoff, hwlen, ⟨huart, htx, hrx⟩, himsc, -⟩ := hwf
  obtain rfl := Host.Outcome.next.inj ((exec_init hd hq hl).symm.trans hexec)
  exact ⟨lineControl_wordLength_of_ones hwlen, huart, htx, hrx, hoff,
    fun j hj => getLsbD_of_and_sourceBits hnIrq himsc hj⟩

end Sys2Proof.Machine
end

section
/-! What one step is made of: an outside move, or what the block opens and the micro-steps that follow. -/

namespace Sys2Proof.Machine

/-- u is s with other inputs waiting: the schedule, another master's transaction, command bytes, interrupt requests. -/
def SameButInputs (s u : State) : Prop :=
  ∃ sched bus cmdIn irqReq, u = { s with sched := sched, bus := bus, cmdIn := cmdIn, irqReq := irqReq }

/-- How the block opens a step, its input taken: it goes on with what is in progress or waits, serves another master,
refuses a command, takes an interrupt, or accepts a command at its first label. -/
inductive Opening (u : State) : State → Prop
  | proceed : Opening u u
  | other (r : Reg) (a : Access) : Opening u (otherAccess r a u)
  | badOpcode (op : Byte) : Opening u (refuseOpcode op u)
  | refused (p : IrqPort) (r : Reason) (i : Instr) : Opening u (refuse p r (logCmd i u))
  | interrupt (p : IrqPort) (hready : u.life = .ready) (hipc : u.ipc = .idle) :
      Opening u (takeIrq p (logCmd .irq u))
  | accepted {i : Instr} {p : Phase} (hp : firstLabel i = some p) (ha : Admitted i u) (hupc : u.upc = .idle) :
      Opening u { latched i (logCmd i u) with upc := p }

/-- Micro-steps of the foreground command and of the entry, any number of them. -/
abbrev MicroSteps : State → State → Prop :=
  Relation.ReflTransGen fun u v => micro u = .next v ∨ entryMicro u = .next v

theorem microSteps_of_accept {s t : State} (h : accept s = .next t) : MicroSteps s t :=
  accept_keeps (MicroSteps s) (fun _ _ hu hm => hu.tail (.inl hm)) .refl h

theorem microSteps_of_advance {s t : State} (h : advance s = .next t) : MicroSteps s t :=
  advance_keeps (MicroSteps s) (fun _ _ hu hm => hu.tail (.inl hm)) .refl h

theorem microSteps_of_advanceEntry {s t : State} (h : advanceEntry s = .next t) : MicroSteps s t :=
  advanceEntry_keeps (MicroSteps s) (fun _ _ hu hm => hu.tail (.inr hm)) .refl h

/-- An interrupt request is refused, or taken and followed by the entry's micro-steps. -/
theorem opening_of_startIrq {p : IrqPort} {u t : State} (hipc : u.ipc = .idle) (h : startIrq p u = .next t) :
    ∃ v, Opening u v ∧ MicroSteps v t := by
  rcases startIrq_eq_next h with ⟨r, -, rfl⟩ | ⟨hready, h⟩
  · exact ⟨_, .refused p r .irq, .refl⟩
  · exact ⟨_, .interrupt p (needReady_eq_none.mp hready) hipc, microSteps_of_advanceEntry h⟩

/-- An instruction of an idle block opens a step. -/
theorem opening_of_exec {i : Instr} {u t : State} (hupc : u.upc = .idle) (hipc : u.ipc = .idle)
    (h : exec i u = .next t) : ∃ v, Opening u v ∧ MicroSteps v t := by
  rcases exec_eq_next h with ⟨r, a, -, rfl⟩ | ⟨-, h⟩ | ⟨-, r, -, rfl⟩ | ⟨p, hp, ha, h⟩
  · exact ⟨_, .other r a, .refl⟩
  · exact opening_of_startIrq hipc h
  · exact ⟨_, .refused .command r i, .refl⟩
  · exact ⟨_, .accepted hp ha hupc, microSteps_of_accept h⟩

/-- The block's own step: it takes its input, opens, and makes micro-steps. -/
theorem blockStep_opens {s t : State} (h : blockStep s = .next t) :
    ∃ u v, SameButInputs s u ∧ Opening u v ∧ MicroSteps v t := by
  rcases blockStep_eq_next h with ⟨x, i, -, hi, h⟩ | ⟨-, -, h⟩ | ⟨-, hipc, -, h⟩ | ⟨-, -, -, -, h⟩ |
    ⟨-, hipc, -, hupc, h⟩
  · obtain ⟨r, hr⟩ := decodeTxn_rowReg hi
    obtain ⟨a, ha⟩ := exec_row hr { s with bus := none }
    obtain rfl := Host.Outcome.next.inj (ha.symm.trans h)
    exact ⟨_, _, ⟨_, _, _, _, rfl⟩, .other r a, .refl⟩
  · exact ⟨s, s, ⟨_, _, _, _, rfl⟩, .proceed, microSteps_of_advanceEntry h⟩
  · exact ⟨_, (opening_of_startIrq (by exact hipc) h).imp fun _ hv => ⟨⟨_, _, _, _, rfl⟩, hv⟩⟩
  · exact ⟨s, s, ⟨_, _, _, _, rfl⟩, .proceed, microSteps_of_advance h⟩
  · rcases serveCommand_eq_next h with ⟨i, rest, -, h⟩ | ⟨op, rest, -, rfl⟩ | ⟨-, rfl⟩
    · exact ⟨_, (opening_of_exec (by exact hupc) (by exact hipc) h).imp fun _ hv => ⟨⟨_, _, _, _, rfl⟩, hv⟩⟩
    · exact ⟨_, _, ⟨_, _, _, _, rfl⟩, .badOpcode op, .refl⟩
    · exact ⟨_, _, ⟨_, _, _, _, rfl⟩, .proceed, .refl⟩

/-- A step is a scheduled move of an outside agent, or the block takes its input, opens, and makes micro-steps. -/
theorem step_opens {s t : State} (h : step s = .next t) :
    (∃ m rest, s.sched = m :: rest ∧ m ≠ .block ∧ t = applyMove m { s with sched := rest }) ∨
    ∃ u v, SameButInputs s u ∧ Opening u v ∧ MicroSteps v t := by
  rcases step_eq_next h with hm | ⟨-, h⟩ | ⟨rest, -, h⟩
  · exact .inl hm
  · exact .inr (blockStep_opens h)
  · obtain ⟨u, v, ⟨sched, bus, cmdIn, irqReq, hu⟩, hv⟩ := blockStep_opens h
    exact .inr ⟨u, v, ⟨sched, bus, cmdIn, irqReq, hu⟩, hv⟩

/-- What both kinds of micro-step keep, any number of them keeps. -/
theorem MicroSteps.keeps {P : State → Prop} {v t : State} (h : MicroSteps v t) (hv : P v)
    (hmicro : ∀ u w, P u → micro u = .next w → P w) (hentry : ∀ u w, P u → entryMicro u = .next w → P w) : P t := by
  induction h with
  | refl => exact hv
  | tail _ hlast ih => exact hlast.elim (hmicro _ _ ih) (hentry _ _ ih)

end Sys2Proof.Machine
end

section
/-! The invariant of R42: every micro-step keeps it, label by label, and so does every step. -/

namespace Sys2Proof.Machine

/-! ### The parts of the invariant -/

/-- What the part of the invariant that neither the operation nor the foreground's phase enters speaks of. -/
def coreView (s : State) := (s.life, s.base, s.irqcnt, s.buf, s.len, s.ipc, s.ghost.irqsDone)

/-- Everything the invariant speaks of. -/
def invView (s : State) := (coreView s, s.opst, s.upc, s.cur, s.scr.base, s.ghost.opWrites)

/-- The part of the invariant that neither the operation nor the foreground's phase enters. -/
structure CoreInv (s : State) : Prop where
  lenIsLength : s.len = s.buf.length
  baseBound : s.life = .ready → s.base ≠ 0
  irqCount : s.irqcnt = s.ghost.irqsDone + countedInEntry s.ipc
  entryReady : s.ipc ≠ .idle → s.life = .ready

theorem BlockInv.core {s : State} (hs : BlockInv s) : CoreInv s :=
  ⟨hs.lenIsLength, hs.baseBound, hs.irqCount, hs.entryReady⟩

theorem CoreInv.congr {s t : State} (hs : CoreInv s) (h : coreView t = coreView s) : CoreInv t := by
  simp only [coreView, Prod.mk.injEq] at h
  obtain ⟨hlife, hbase, hcnt, hbuf, hlen, hipc, hdone⟩ := h
  obtain ⟨h1, h2, h3, h4⟩ := hs
  constructor <;> simp only [hlife, hbase, hcnt, hbuf, hlen, hipc, hdone] <;> assumption

/-- The invariant depends on what it speaks of only. -/
theorem BlockInv.congr {s t : State} (hs : BlockInv s) (h : invView t = invView s) : BlockInv t := by
  simp only [invView, coreView, Prod.mk.injEq] at h
  obtain ⟨⟨hlife, hbase, hcnt, hbuf, hlen, hipc, hdone⟩, hop, hupc, hcur, hscr, hw⟩ := h
  obtain ⟨h1, h2, h3, h4, h5, h6, h7, h8, h9, h10, h11, h12, h13, h14, h15⟩ := hs
  constructor <;> simp only [bytesSent, hlife, hbase, hcnt, hop, hupc, hipc, hbuf, hlen, hcur, hscr, hw, hdone] <;>
    assumption

/-- The labels of INIT, PUTC, GETC, RXPEND, ACK and BEGIN, which have no operation alive. -/
def driverLabel (p : Phase) : Bool := decide (p ≠ .idle) && !constructing p && !operating p

theorem driverLabel_iff {p : Phase} :
    driverLabel p = true ↔ p ≠ .idle ∧ constructing p = false ∧ operating p = false := by
  simp [driverLabel, and_assoc]

theorem operating_of_pastCheck {p : Phase} (h : pastCheck p = true) : operating p = true := by
  revert h
  cases p <;> decide

theorem pastCheck_of_sending {p : Phase} (h : sending p = true) : pastCheck p = true := by
  revert h
  cases p <;> decide

theorem not_constructing_of_operating {p : Phase} (h : operating p = true) : constructing p = false := by
  revert h
  cases p <;> decide

theorem ne_idle_of_operating {p : Phase} (h : operating p = true) : p ≠ .idle := by
  rintro rfl
  cases h

/-! ### What makes the invariant -/

/-- With no operation alive the phase matters only. -/
theorem CoreInv.blockInv_of_none {s : State} (hc : CoreInv s) (hop : s.opst = .none) (hlabel : operating s.upc = false)
    (hconstruct : constructing s.upc = true → s.life = .reset) (hbind : s.upc = .c3 → s.scr.base ≠ 0)
    (hready : driverLabel s.upc = true → s.life = .ready) : BlockInv s where
  lenIsLength := hc.lenIsLength
  baseBound := hc.baseBound
  cursorInBuffer h := absurd hop h
  unfinished h := by simp [hop] at h
  finished h := by simp [hop] at h
  dataWrites h := absurd hop h
  irqCount := hc.irqCount
  aliveReady h := absurd hop h
  constructPhase := hconstruct
  bindPhase := hbind
  readyPhase h1 h2 := hready (driverLabel_iff.mpr ⟨h1, h2, hlabel⟩)
  operationPhase _ := by simp [hlabel, hop]
  pastCheckPhase h := by simp [operating_of_pastCheck h] at hlabel
  sendingPhase h := by simp [operating_of_pastCheck (pastCheck_of_sending h)] at hlabel
  entryReady := hc.entryReady

/-- Between commands with no operation alive nothing else matters. -/
theorem CoreInv.blockInv_of_idle {s : State} (hc : CoreInv s) (hop : s.opst = .none) (hupc : s.upc = .idle) :
    BlockInv s := by
  refine hc.blockInv_of_none hop ?_ ?_ ?_ ?_ <;> rw [hupc]
  · rfl
  all_goals exact fun h => nomatch h

/-- With an operation alive the driver is READY, and the phase is idle or one of DRIVE and DROP. -/
theorem CoreInv.blockInv_of_alive {s : State} (hc : CoreInv s) (hlife : s.life = .ready) (hop : s.opst ≠ .none)
    (hlabel : s.upc = .idle ∨ operating s.upc = true) (hcur : s.cur ≤ s.len)
    (hun : s.opst = .active ∨ s.opst = .suspended → s.cur < s.len ∨ s.upc = .d1)
    (hfin : s.opst = .complete → s.cur = s.len)
    (hdata : s.ghost.opWrites = (s.buf.take (bytesSent s)).map zext32)
    (hpast : pastCheck s.upc = true → s.cur < s.len) (hsend : sending s.upc = true → s.opst = .active) :
    BlockInv s := by
  have hnot : constructing s.upc = false := by
    rcases hlabel with h | h
    · rw [h]; rfl
    · exact not_constructing_of_operating h
  exact
    { lenIsLength := hc.lenIsLength
      baseBound := hc.baseBound
      cursorInBuffer := fun _ => hcur
      unfinished := hun
      finished := hfin
      dataWrites := fun _ => hdata
      irqCount := hc.irqCount
      aliveReady := fun _ => hlife
      constructPhase := fun h => by simp [hnot] at h
      bindPhase := fun h => by simp [h, constructing] at hnot
      readyPhase := fun _ _ => hlife
      operationPhase := fun h => by simp [hlabel.resolve_left h, hop]
      pastCheckPhase := hpast
      sendingPhase := hsend
      entryReady := hc.entryReady }

/-! ### What a label says under the invariant -/

theorem BlockInv.of_driverLabel {s : State} (hs : BlockInv s) (h : driverLabel s.upc = true) :
    s.life = .ready ∧ s.opst = .none := by
  obtain ⟨hidle, hnc, hno⟩ := driverLabel_iff.mp h
  refine ⟨hs.readyPhase hidle hnc, ?_⟩
  simpa [hno] using hs.operationPhase hidle

theorem BlockInv.of_constructing {s : State} (hs : BlockInv s) (h : constructing s.upc = true) :
    s.life = .reset ∧ s.opst = .none ∧ s.ipc = .idle := by
  have hlife := hs.constructPhase h
  refine ⟨hlife, ?_, ?_⟩ <;> by_contra hne
  · simp [hs.aliveReady hne] at hlife
  · simp [hs.entryReady hne] at hlife

theorem BlockInv.of_operating {s : State} (hs : BlockInv s) (h : operating s.upc = true) :
    s.life = .ready ∧ s.opst ≠ .none ∧ s.cur ≤ s.len := by
  have hidle := ne_idle_of_operating h
  have hop := (hs.operationPhase hidle).mp h
  exact ⟨hs.aliveReady hop, hop, hs.cursorInBuffer hop⟩

/-! ### The micro-steps of the foreground -/

/-- A label of the driver commands leads to another one or ends the command. -/
theorem BlockInv.driverStep {s t : State} (hs : BlockInv s) (hl : driverLabel s.upc = true)
    (hv : coreView t = coreView s) (hop : t.opst = s.opst) (ht : t.upc = .idle ∨ driverLabel t.upc = true) :
    BlockInv t := by
  obtain ⟨hlife, hnone⟩ := hs.of_driverLabel hl
  have hc := hs.core.congr hv
  have hready : t.life = .ready := (congrArg Prod.fst hv).trans hlife
  rcases ht with ht | ht
  · exact hc.blockInv_of_idle (hop.trans hnone) ht
  · obtain ⟨-, hnc, hno⟩ := driverLabel_iff.mp ht
    exact hc.blockInv_of_none (hop.trans hnone) hno (fun h => by simp [hnc] at h)
      (fun h => by simp [h, constructing] at hnc) (fun _ => hready)

theorem BlockInv.after_microC1 {s : State} (hs : BlockInv s) (hp : s.upc = .c1) :
    BlockInv { s with upc := if s.scr.base = 0 then .c2 else .c3 } := by
  obtain ⟨hlife, hop, -⟩ := hs.of_constructing (by rw [hp]; rfl)
  have hc : ∀ p, CoreInv { s with upc := p } := fun p => hs.core.congr rfl
  by_cases hb : s.scr.base = 0
  · rw [if_pos hb]
    exact (hc .c2).blockInv_of_none hop rfl (fun _ => hlife) nofun nofun
  · rw [if_neg hb]
    exact (hc .c3).blockInv_of_none hop rfl (fun _ => hlife) (fun _ => hb) nofun

theorem BlockInv.after_microC2 {s : State} (hs : BlockInv s) (hp : s.upc = .c2) : BlockInv (raiseNullBase s) := by
  obtain ⟨-, hop, hipc⟩ := hs.of_constructing (by rw [hp]; rfl)
  have hc : CoreInv (raiseNullBase s) := ⟨hs.lenIsLength, nofun, hs.irqCount, fun h => absurd hipc h⟩
  exact hc.blockInv_of_idle hop rfl

theorem BlockInv.after_microC3 {s t : State} (hs : BlockInv s) (hp : s.upc = .c3) (h : microC3 s = .next t) :
    BlockInv t := by
  obtain ⟨-, -, hipc⟩ := hs.of_constructing (by rw [hp]; rfl)
  cases h
  have hirq : 0 = 0 + countedInEntry s.ipc := by rw [hipc]; rfl
  exact CoreInv.blockInv_of_idle ⟨hs.lenIsLength, fun _ => hs.bindPhase hp, hirq, fun _ => rfl⟩ rfl rfl

theorem BlockInv.after_microB1 {s t : State} (hs : BlockInv s) (hp : s.upc = .b1) (h : microB1 s = .next t) :
    BlockInv t := by
  obtain ⟨hlife, -⟩ := hs.of_driverLabel (by rw [hp]; rfl)
  cases h
  cases hlen : s.scr.bytes with
  | nil =>
    exact CoreInv.blockInv_of_alive ⟨rfl, hs.baseBound, hs.irqCount, hs.entryReady⟩ hlife nofun (.inl rfl)
      (Nat.zero_le _) nofun (fun _ => rfl) rfl nofun nofun
  | cons b bytes =>
    exact CoreInv.blockInv_of_alive ⟨rfl, hs.baseBound, hs.irqCount, hs.entryReady⟩ hlife nofun (.inl rfl)
      (Nat.zero_le _) (fun _ => .inl (Nat.succ_pos _)) nofun rfl nofun nofun

theorem BlockInv.after_microD1 {s t : State} (hs : BlockInv s) (hp : s.upc = .d1) (h : microD1 s = .next t) :
    BlockInv t := by
  obtain ⟨hlife, hop, hcur⟩ := hs.of_operating (by rw [hp]; rfl)
  have hdata : s.ghost.opWrites = (s.buf.take s.cur).map zext32 := by
    simpa [bytesSent, hp] using hs.dataWrites hop
  rcases microD1_next.mp h with ⟨hdone, rfl⟩ | ⟨hmore, rfl⟩
  · exact CoreInv.blockInv_of_alive (hs.core.congr rfl) hlife nofun (.inl rfl) hcur (fun h => by simp at h)
      (fun _ => Nat.le_antisymm hcur hdone) hdata nofun nofun
  · exact CoreInv.blockInv_of_alive (hs.core.congr rfl) hlife hop (.inr rfl) hcur (fun _ => .inl hmore) hs.finished
      hdata (fun _ => hmore) nofun

/-- Past D1 the operation is ACTIVE or SUSPENDED and below its length (R188). -/
theorem BlockInv.of_pastCheck {s : State} (hs : BlockInv s) (h : pastCheck s.upc = true) :
    s.life = .ready ∧ s.cur < s.len ∧ s.opst ≠ .none ∧ s.opst ≠ .complete := by
  obtain ⟨hlife, hop, -⟩ := hs.of_operating (operating_of_pastCheck h)
  have hlt := hs.pastCheckPhase h
  exact ⟨hlife, hlt, hop, fun hc => hlt.ne (hs.finished hc)⟩

/-- Past D1 and before D5 the record is the bytes before the cursor. -/
theorem BlockInv.dataWrites_of_pastCheck {s : State} (hs : BlockInv s) (h : pastCheck s.upc = true)
    (hd5 : s.upc ≠ .d5) : s.ghost.opWrites = (s.buf.take s.cur).map zext32 := by
  obtain ⟨-, -, hop, -⟩ := hs.of_pastCheck h
  simpa only [bytesSent, if_neg hd5] using hs.dataWrites hop

/-- Past D1 a label leads to another one past D1 at the same cursor, or suspends the operation. -/
theorem BlockInv.pastCheckStep {s t : State} (hs : BlockInv s) (hl : pastCheck s.upc = true)
    (hv : coreView t = coreView s) (hcur : t.cur = s.cur) (hop : t.opst ≠ .none) (hfin : t.opst ≠ .complete)
    (hdata : t.ghost.opWrites = (s.buf.take (bytesSent t)).map zext32)
    (ht : t.upc = .idle ∨ operating t.upc = true) (hsend : sending t.upc = true → t.opst = .active) : BlockInv t := by
  obtain ⟨hlife, hlt, -⟩ := hs.of_pastCheck hl
  have hc := hs.core.congr hv
  simp only [coreView, Prod.mk.injEq] at hv
  obtain ⟨htlife, -, -, htbuf, htlen, -⟩ := hv
  have htlt : t.cur < t.len := by rw [hcur, htlen]; exact hlt
  exact hc.blockInv_of_alive (htlife.trans hlife) hop ht htlt.le (fun _ => .inl htlt)
    (fun h => absurd h hfin) (htbuf ▸ hdata) (fun _ => htlt) hsend

theorem BlockInv.after_microD2 {s t : State} (hs : BlockInv s) (hp : s.upc = .d2) (h : microD2 s = .next t) :
    BlockInv t := by
  have hl : pastCheck s.upc = true := by rw [hp]; rfl
  obtain ⟨-, -, hop, hfin⟩ := hs.of_pastCheck hl
  have hdata := hs.dataWrites_of_pastCheck hl (by simp [hp])
  obtain ⟨-, ⟨-, rfl⟩ | ⟨-, rfl⟩⟩ := microD2_next.mp h
  · exact BlockInv.pastCheckStep hs hl rfl rfl hop hfin hdata (.inr rfl) nofun
  · exact BlockInv.pastCheckStep hs hl rfl rfl nofun nofun hdata (.inr rfl) (fun _ => rfl)

theorem BlockInv.after_microDS {s t : State} (hs : BlockInv s) (hp : s.upc = .ds) (h : microDS s = .next t) :
    BlockInv t := by
  have hl : pastCheck s.upc = true := by rw [hp]; rfl
  have hdata := hs.dataWrites_of_pastCheck hl (by simp [hp])
  cases h
  exact BlockInv.pastCheckStep hs hl rfl rfl nofun nofun hdata (.inl rfl) nofun

theorem BlockInv.after_microD3 {s t : State} (hs : BlockInv s) (hp : s.upc = .d3) (h : microD3 s = .next t) :
    BlockInv t := by
  have hl : pastCheck s.upc = true := by rw [hp]; rfl
  obtain ⟨-, -, hop, hfin⟩ := hs.of_pastCheck hl
  have hactive := hs.sendingPhase (by rw [hp]; rfl)
  have hdata := hs.dataWrites_of_pastCheck hl (by simp [hp])
  obtain ⟨-, rfl⟩ := microD3_next.mp h
  cases txBusy (answer s .fr) <;>
    exact BlockInv.pastCheckStep hs hl rfl rfl hop hfin hdata (.inr rfl) (fun _ => hactive)

theorem BlockInv.after_microD4 {s t : State} (hs : BlockInv s) (hp : s.upc = .d4) (h : microD4 s = .next t) :
    BlockInv t := by
  have hl : pastCheck s.upc = true := by rw [hp]; rfl
  obtain ⟨-, -, hop, hfin⟩ := hs.of_pastCheck hl
  have hactive := hs.sendingPhase (by rw [hp]; rfl)
  obtain ⟨-, b, hb, rfl⟩ := microD4_next.mp h
  have hdata : s.ghost.opWrites ++ [zext32 b] = (s.buf.take (s.cur + 1)).map zext32 := by
    rw [hs.dataWrites_of_pastCheck hl (by simp [hp]), List.take_add_one, hb, List.map_append]
    rfl
  exact BlockInv.pastCheckStep hs hl rfl rfl hop hfin hdata (.inr rfl) (fun _ => hactive)

theorem BlockInv.after_microD5 {s t : State} (hs : BlockInv s) (hp : s.upc = .d5) (h : microD5 s = .next t) :
    BlockInv t := by
  obtain ⟨hlife, hlt, hop, hfin⟩ := hs.of_pastCheck (by rw [hp]; rfl)
  have hdata : s.ghost.opWrites = (s.buf.take (s.cur + 1)).map zext32 := by
    simpa only [bytesSent, if_pos hp] using hs.dataWrites hop
  cases h
  exact CoreInv.blockInv_of_alive (hs.core.congr rfl) hlife hop (.inr rfl) hlt (fun _ => .inr rfl)
    (fun h => absurd h hfin) hdata nofun nofun

theorem BlockInv.after_microX1 {s t : State} (hs : BlockInv s) (h : microX1 s = .next t) : BlockInv t := by
  cases h
  exact CoreInv.blockInv_of_idle (hs.core.congr rfl) rfl rfl

/-- Every micro-step of a foreground command keeps the invariant. -/
theorem BlockInv.after_micro {s t : State} (hs : BlockInv s) (h : micro s = .next t) : BlockInv t := by
  rcases micro_eq_next h with ⟨-, rfl⟩ | ⟨hp, rfl⟩ | ⟨hp, rfl⟩ | ⟨hp, h⟩ |
    ⟨r, v, p, hidle, hnc, hno, -, hpi, -, hpc, hpo, -, rfl, -⟩ | ⟨hp, h⟩ | ⟨hp, h⟩ | ⟨hp, h⟩ | ⟨hp, h⟩ | ⟨hp, h⟩ |
    ⟨hp, h⟩ | ⟨hp, h⟩ | ⟨hp, h⟩ | ⟨hp, h⟩ | ⟨hp, h⟩ | ⟨hp, h⟩ | ⟨hp, h⟩ | ⟨hp, h⟩ | ⟨hp, h⟩ | ⟨hp, h⟩
  · exact hs
  · exact hs.after_microC1 hp
  · exact hs.after_microC2 hp
  · exact hs.after_microC3 hp h
  · exact BlockInv.driverStep hs (driverLabel_iff.mpr ⟨hidle, hnc, hno⟩) rfl rfl
      (.inr (driverLabel_iff.mpr ⟨hpi, hpc, hpo⟩))
  · cases h
    exact BlockInv.driverStep hs (by rw [hp]; rfl) rfl rfl (.inl rfl)
  · obtain ⟨-, rfl⟩ := microP1_next.mp h
    exact BlockInv.driverStep hs (by rw [hp]; rfl) rfl rfl (.inr (by dsimp only; split <;> rfl))
  · obtain ⟨-, rfl⟩ := microP2_next.mp h
    exact BlockInv.driverStep hs (by rw [hp]; rfl) rfl rfl (.inl rfl)
  · obtain ⟨-, rfl⟩ := microG1_next.mp h
    exact BlockInv.driverStep hs (by rw [hp]; rfl) rfl rfl (.inr (by dsimp only; split <;> rfl))
  · obtain ⟨-, rfl⟩ := microG2_next.mp h
    exact BlockInv.driverStep hs (by rw [hp]; rfl) rfl rfl (.inl rfl)
  · obtain ⟨-, rfl⟩ := microQ1_next.mp h
    exact BlockInv.driverStep hs (by rw [hp]; rfl) rfl rfl (.inl rfl)
  · obtain ⟨-, rfl⟩ := microA1_next.mp h
    exact BlockInv.driverStep hs (by rw [hp]; rfl) rfl rfl (.inl rfl)
  · exact hs.after_microB1 hp h
  · exact hs.after_microD1 hp h
  · exact hs.after_microD2 hp h
  · exact hs.after_microDS hp h
  · exact hs.after_microD3 hp h
  · exact hs.after_microD4 hp h
  · exact hs.after_microD5 hp h
  · exact hs.after_microX1 h

/-! ### The entry, the openings of a step, and the outside moves -/

/-- The entry moves on: nothing the invariant speaks of changes but its phase and the two counts. -/
theorem BlockInv.entryStep {s t : State} (hs : BlockInv s) (hlife : s.life = .ready)
    (hcount : t.irqcnt = t.ghost.irqsDone + countedInEntry t.ipc)
    (hv : invView t = invView { s with ipc := t.ipc, irqcnt := t.irqcnt,
                                       ghost := { s.ghost with irqsDone := t.ghost.irqsDone } }) : BlockInv t := by
  refine BlockInv.congr ?_ hv
  exact { hs with irqCount := hcount, entryReady := fun _ => hlife }

/-- Every micro-step of the entry keeps the invariant. -/
theorem BlockInv.after_entryMicro {s t : State} (hs : BlockInv s) (h : entryMicro s = .next t) : BlockInv t := by
  have hcount := hs.irqCount
  have hready := hs.entryReady
  rcases entryMicro_eq_next h with ⟨-, rfl⟩ | ⟨hp, rfl⟩ | ⟨hp, -, rfl⟩ | ⟨hp, rfl⟩ | ⟨hp, -, rfl⟩
  · exact hs
  all_goals rw [hp] at hcount hready
  · exact hs.entryStep (hready nofun) (congrArg Nat.succ hcount) rfl
  · refine hs.entryStep (hready nofun) ?_ rfl
    dsimp only
    split <;> exact hcount
  · refine hs.entryStep (hready nofun) ?_ ?_ <;> simp [invView, coreView, hcount, countedInEntry]
  · refine hs.entryStep (hready nofun) ?_ ?_ <;> simp [invView, coreView, hcount, countedInEntry]

/-- A command is accepted at its first label with what the label presumes. -/
theorem BlockInv.after_acceptance {i : Instr} {p : Phase} {u : State} (hs : BlockInv u) (hp : firstLabel i = some p)
    (ha : Admitted i u) (hupc : u.upc = .idle) : BlockInv { latched i (logCmd i u) with upc := p } := by
  have hnotd5 : bytesSent u = u.cur := by simp [bytesSent, hupc]
  cases i <;> cases hp
  case construct base =>
    have hlife : u.life = .reset := ha
    have hop : u.opst = .none := by
      by_contra hne
      simp [hs.aliveReady hne] at hlife
    exact CoreInv.blockInv_of_none (hs.core.congr rfl) hop rfl (fun _ => hlife) nofun nofun
  case drive | drop =>
    obtain ⟨hlife, hop⟩ := ha
    have hdata := hs.dataWrites hop
    rw [hnotd5] at hdata
    refine CoreInv.blockInv_of_alive (hs.core.congr rfl) hlife hop (.inr rfl) (hs.cursorInBuffer hop) ?_ hs.finished
      hdata nofun nofun
    exact fun h => .inl ((hs.unfinished h).resolve_right (by simp [hupc]))
  all_goals
    obtain ⟨hlife, hop⟩ := ha
    exact CoreInv.blockInv_of_none (hs.core.congr rfl) hop rfl nofun nofun (fun _ => hlife)

/-- Every opening of a step keeps the invariant. -/
theorem BlockInv.after_opening {u v : State} (hs : BlockInv u) (h : Opening u v) : BlockInv v := by
  cases h with
  | proceed => exact hs
  | other r a => exact hs.congr (by simp [invView, coreView])
  | badOpcode op => exact hs.congr rfl
  | refused p r i => exact hs.congr (by simp [invView, coreView])
  | interrupt p hready hipc =>
    have hcount := hs.irqCount
    rw [hipc] at hcount
    exact hs.entryStep hready hcount rfl
  | accepted hp ha hupc => exact hs.after_acceptance hp ha hupc

/-- The invariant speaks of no input. -/
theorem BlockInv.of_sameButInputs {s u : State} (hs : BlockInv s) (h : SameButInputs s u) : BlockInv u := by
  obtain ⟨sched, bus, cmdIn, irqReq, rfl⟩ := h
  exact hs.congr rfl

/-- The reset state has the invariant. -/
theorem blockInv_reset : BlockInv State.reset := CoreInv.blockInv_of_idle ⟨rfl, nofun, rfl, nofun⟩ rfl rfl

/-- No outside move touches what the invariant speaks of, but the reset input, which makes it a reset block's. -/
theorem BlockInv.after_move {s : State} (hs : BlockInv s) (m : Move) : BlockInv (applyMove m s) := by
  cases m with
  | reset => exact blockInv_reset.congr rfl
  | _ => exact hs.congr rfl

/-- Micro-steps keep the invariant. -/
theorem BlockInv.after_microSteps {v t : State} (hs : BlockInv v) (h : MicroSteps v t) : BlockInv t :=
  h.keeps hs (fun _ _ hu => hu.after_micro) (fun _ _ hu => hu.after_entryMicro)

/-- Settles O52: the outside moves, the openings of a step and the micro-steps each keep the invariant. -/
theorem stepKeepsInv : Obligations.StepKeepsInv := by
  intro s t hs h
  rcases step_opens h with ⟨m, rest, -, -, rfl⟩ | ⟨u, v, hu, hv, ht⟩
  · exact (hs.congr rfl : BlockInv { s with sched := rest }).after_move m
  · exact ((hs.of_sameButInputs hu).after_opening hv).after_microSteps ht

/-- Settles O51: at a command boundary the invariant's clauses are R42's, the phase being idle. -/
theorem resetSatisfiesInv : Obligations.ResetSatisfiesInv := by
  refine ⟨blockInv_reset, fun s hs ⟨hupc, hipc⟩ hlife => ?_⟩
  have hirq := hs.irqCount
  have hdata := hs.dataWrites
  simp only [bytesSent, hupc, reduceCtorEq, if_false] at hdata
  simp only [hipc, countedInEntry, Nat.add_zero] at hirq
  exact ⟨hs.baseBound hlife, hs.cursorInBuffer, fun h => (hs.unfinished h).resolve_right (by simp [hupc]),
    hs.finished, hdata, hirq⟩

end Sys2Proof.Machine
end

section
/-! The accesses of the block (R54 to R58): the access of each label, said once, and what follows for the trace. -/

namespace Sys2Proof.Machine

/-! ### Accesses in a trace -/

@[simp] theorem blockAccesses_append (xs ys : List Event) :
    blockAccesses (xs ++ ys) = blockAccesses xs ++ blockAccesses ys := by
  induction xs with
  | nil => rfl
  | cons e xs ih => cases e <;> simp only [List.cons_append, blockAccesses, ih]

/-- The access matrix (R58), as (written, register) pairs. -/
def inAccessMatrix (x : Bool × Reg) : Bool :=
  if x.1 then x.2 ≠ .fr ∧ x.2 ≠ .ris ∧ x.2 ≠ .mis else x.2 = .fr ∨ x.2 = .dr ∨ x.2 = .mis

/-- The listed events of a trace are those whose accesses are in the matrix. -/
theorem all_listedAccess (tr : List Event) : tr.all listedAccess = (blockAccesses tr).all inAccessMatrix := by
  induction tr with
  | nil => rfl
  | cons e tr ih =>
    cases e with
    | read r _ _ | write r _ _ => cases r <;> simp only [List.all_cons, blockAccesses, ih] <;> rfl
    | _ => exact ih

/-! ### The access of each label -/

/-- The access a foreground label makes, if any (R153 to R160 of 40_driver_ops.md, R185 to R188 of 41_async_write.md). -/
def accessOf : Phase → List (Bool × Reg)
  | .i1 | .i7 => [(true, .cr)]
  | .i2 => [(true, .ibrd)]
  | .i3 => [(true, .fbrd)]
  | .i4 => [(true, .lcrh)]
  | .i5 => [(true, .ifls)]
  | .i6 => [(true, .imsc)]
  | .p1 | .g1 | .d2 | .d3 => [(false, .fr)]
  | .p2 | .d4 => [(true, .dr)]
  | .g2 => [(false, .dr)]
  | .q1 => [(false, .mis)]
  | .a1 => [(true, .icr)]
  | .idle | .c1 | .c2 | .c3 | .i8 | .b1 | .d1 | .ds | .d5 | .x1 => []

/-- The access a label of the interrupt entry makes, if any (R212, R215 of 42_interrupt_wake.md). -/
def entryAccessOf : EntryPhase → List (Bool × Reg)
  | .h2 => [(false, .mis)]
  | .h4 => [(true, .icr)]
  | .idle | .h1 | .h3 => []

/-- The labels a foreground label can lead to; a spin's own is one of them. -/
def nextLabels : Phase → List Phase
  | .c1 => [.c2, .c3]
  | .i1 => [.i2]
  | .i2 => [.i3]
  | .i3 => [.i4]
  | .i4 => [.i5]
  | .i5 => [.i6]
  | .i6 => [.i7]
  | .i7 => [.i8]
  | .p1 => [.p1, .p2]
  | .g1 => [.g1, .g2]
  | .d1 => [.idle, .d2]
  | .d2 => [.ds, .d3]
  | .d3 => [.d3, .d4]
  | .d4 => [.d5]
  | .d5 => [.d1]
  | .idle | .c2 | .c3 | .i8 | .p2 | .g2 | .q1 | .a1 | .b1 | .ds | .x1 => [.idle]

/-- A foreground micro-step makes the access of its label and goes on to a label after it. -/
theorem micro_accesses {s t : State} (h : micro s = .next t) :
    blockAccesses t.trace = blockAccesses s.trace ++ accessOf s.upc ∧ t.upc ∈ nextLabels s.upc := by
  cases hp : s.upc <;> simp only [micro, hp] at h
  case i1 | i2 | i3 | i4 | i5 | i6 | i7 =>
    obtain ⟨-, rfl⟩ := microInit_next.mp h
    simp [accessOf, nextLabels, blockAccesses]
  case p1 =>
    obtain ⟨-, rfl⟩ := microP1_next.mp h
    cases txBusy (answer s .fr) <;> simp [accessOf, nextLabels, blockAccesses]
  case g1 =>
    obtain ⟨-, rfl⟩ := microG1_next.mp h
    cases rxEmpty (answer s .fr) <;> simp [accessOf, nextLabels, blockAccesses]
  case d3 =>
    obtain ⟨-, rfl⟩ := microD3_next.mp h
    cases txBusy (answer s .fr) <;> simp [accessOf, nextLabels, blockAccesses]
  case p2 => obtain ⟨-, rfl⟩ := microP2_next.mp h; simp [accessOf, nextLabels, blockAccesses]
  case g2 => obtain ⟨-, rfl⟩ := microG2_next.mp h; simp [accessOf, nextLabels, blockAccesses]
  case q1 => obtain ⟨-, rfl⟩ := microQ1_next.mp h; simp [accessOf, nextLabels, blockAccesses]
  case a1 => obtain ⟨-, rfl⟩ := microA1_next.mp h; simp [accessOf, nextLabels, blockAccesses]
  case d4 => obtain ⟨-, b, -, rfl⟩ := microD4_next.mp h; simp [accessOf, nextLabels, blockAccesses]
  case d1 => rcases microD1_next.mp h with ⟨-, rfl⟩ | ⟨-, rfl⟩ <;> simp [accessOf, nextLabels, blockAccesses]
  case d2 => obtain ⟨-, ⟨-, rfl⟩ | ⟨-, rfl⟩⟩ := microD2_next.mp h <;> simp [accessOf, nextLabels, blockAccesses]
  case c1 => cases h; by_cases hb : s.scr.base = 0 <;> simp [hb, accessOf, nextLabels]
  case idle | c2 | c3 | i8 | b1 | ds | d5 | x1 =>
    cases h
    simp [accessOf, nextLabels, blockAccesses, raiseNullBase, hp]

theorem blockAccesses_fireWake (s : State) : blockAccesses (fireWake s).trace = blockAccesses s.trace := by
  cases hw : s.wake with
  | none => rw [fireWake_none s hw]
  | some w => simp [fireWake_some s hw, blockAccesses]

/-- A micro-step of the entry makes the access of its label. -/
theorem entryMicro_accesses {s t : State} (h : entryMicro s = .next t) :
    blockAccesses t.trace = blockAccesses s.trace ++ entryAccessOf s.ipc := by
  rcases entryMicro_eq_next h with ⟨hp, rfl⟩ | ⟨hp, rfl⟩ | ⟨hp, -, rfl⟩ | ⟨hp, rfl⟩ | ⟨hp, -, rfl⟩ <;>
    simp [hp, entryAccessOf, blockAccesses, blockAccesses_fireWake]

/-! ### What a step's opening does to the trace -/

@[simp] theorem latched_trace (i : Instr) (s : State) : (latched i s).trace = s.trace := by cases i <;> rfl

/-- No opening of a step makes an access of the block. -/
theorem Opening.accesses {u v : State} (h : Opening u v) : blockAccesses v.trace = blockAccesses u.trace := by
  cases h with
  | other r a => cases a <;> simp [blockAccesses]
  | proceed => rfl
  | badOpcode op => simp [refuseOpcode, blockAccesses]
  | refused | interrupt | accepted => simp [blockAccesses]

/-- No outside move changes the trace. -/
theorem applyMove_trace (m : Move) (s : State) : (applyMove m s).trace = s.trace := by cases m <;> rfl

/-- Settles O54: what a step adds to the block's accesses are the accesses of labels, and each is in the matrix. -/
theorem stepMakesListedAccessesOnly : Obligations.StepMakesListedAccessesOnly := by
  intro s t hs h
  rw [all_listedAccess] at hs ⊢
  rcases step_opens h with ⟨m, rest, -, -, rfl⟩ | ⟨u, v, ⟨_, _, _, _, rfl⟩, hv, ht⟩
  · rwa [applyMove_trace]
  refine ht.keeps (P := fun w => (blockAccesses w.trace).all inAccessMatrix = true) ?_ ?_ ?_
  · rwa [hv.accesses]
  · intro w x hw hm
    rw [(micro_accesses hm).1, List.all_append, hw]
    cases w.upc <;> rfl
  · intro w x hw hm
    rw [entryMicro_accesses hm, List.all_append, hw]
    cases w.ipc <;> rfl

/-! ### Commands that complete in their step -/

/-- The seven writes of INIT (R153 of 40_driver_ops.md). -/
def initAccesses : List (Bool × Reg) :=
  [(true, .cr), (true, .ibrd), (true, .fbrd), (true, .lcrh), (true, .ifls), (true, .imsc), (true, .cr)]

/-- The accesses still to make from a label to the command's response, no poll in vain; DRIVE's depend on its data. -/
def accessesFrom : Phase → List (Bool × Reg)
  | .i1 => initAccesses
  | .i2 => initAccesses.drop 1
  | .i3 => initAccesses.drop 2
  | .i4 => initAccesses.drop 3
  | .i5 => initAccesses.drop 4
  | .i6 => initAccesses.drop 5
  | .i7 => initAccesses.drop 6
  | .p1 => [(false, .fr), (true, .dr)]
  | .g1 => [(false, .fr), (false, .dr)]
  | p => accessOf p

/-- A label that is none of DRIVE's makes its access and leaves the accesses of the label after it. -/
theorem accessesFrom_next {p : Phase} (hd : labelOf (.drive 0) p = false) :
    ∀ q ∈ nextLabels p, q = .idle ∨ q ≠ p →
      labelOf (.drive 0) q = false ∧ accessesFrom p = accessOf p ++ accessesFrom q := by
  revert hd
  cases p <;> decide

/-- Micro-steps that run up to the response make the accesses of their first label on. -/
theorem runMicros_accesses {n : Nat} {s t : State} (hd : labelOf (.drive 0) s.upc = false)
    (h : runMicros n s = .next t) (ht : t.upc = .idle) :
    blockAccesses t.trace = blockAccesses s.trace ++ accessesFrom s.upc := by
  induction n generalizing s with
  | zero =>
    cases h
    simp [ht, accessesFrom, accessOf]
  | succ n ih =>
    obtain ⟨u, hu, h⟩ := andThen_eq_next h
    obtain ⟨hacc, hlabel⟩ := micro_accesses hu
    split at h
    · cases h
      obtain ⟨-, hfrom⟩ := accessesFrom_next hd _ hlabel (.inl ht)
      rw [hacc, hfrom, ht]
      simp [accessesFrom, accessOf]
    · rename_i hgo
      obtain ⟨hd', hfrom⟩ := accessesFrom_next hd _ hlabel (.inr fun he => hgo (.inr he))
      rw [ih hd' h, hacc, hfrom, List.append_assoc]

/-- A foreground command that completes in its quiet step, DRIVE apart, makes the accesses of its first label on. -/
theorem exec_accesses {i : Instr} {p : Phase} {s t : State} (hp : firstLabel i = some p)
    (hd : labelOf (.drive 0) p = false) (hq : quiet s = true) (h : exec i s = .next t) (ht : t.upc = .idle)
    (hm : t.mark = false) : blockAccesses t.trace = blockAccesses s.trace ++ accessesFrom p := by
  obtain ⟨check, hexec, -⟩ := exec_foreground hp s
  rw [hexec] at h
  rcases startCommand_eq_next h with ⟨r, -, rfl⟩ | ⟨-, h⟩
  · simp at hm
  · have hq' : quiet { latched i (logCmd i s) with upc := p } = true := by
      rw [← hq]
      cases i <;> rfl
    rw [accept_of_quiet hq', advance_of_quiet hq'] at h
    simpa [blockAccesses] using runMicros_accesses hd h ht

/-! ### The entry, run to its response -/

/-- The accesses still to make from a label of the entry to its response. -/
def entryAccessesFrom : EntryPhase → List (Bool × Reg)
  | .idle => []
  | .h1 | .h2 => [(false, .mis), (true, .icr)]
  | .h3 | .h4 => [(true, .icr)]

/-- How many micro-steps the entry makes at most from a label to its response. -/
def entryStepsLeft : EntryPhase → Nat
  | .idle => 0
  | .h1 => 4
  | .h2 => 3
  | .h3 => 2
  | .h4 => 1

/-- A micro-step of the entry leaves the accesses of the label after it, which is nearer to the response. -/
theorem entryAccessesFrom_next {s t : State} (h : entryMicro s = .next t) :
    entryAccessesFrom s.ipc = entryAccessOf s.ipc ++ entryAccessesFrom t.ipc ∧
    entryStepsLeft t.ipc ≤ entryStepsLeft s.ipc - 1 := by
  rcases entryMicro_eq_next h with ⟨hp, rfl⟩ | ⟨hp, rfl⟩ | ⟨hp, -, rfl⟩ | ⟨hp, rfl⟩ | ⟨hp, -, rfl⟩ <;>
    simp only [hp]
  case inr.inr.inl => cases wakeCondition s.cfg (answer s .mis) <;> exact ⟨rfl, by decide⟩
  all_goals exact ⟨rfl, Nat.le_refl _⟩

/-- An entry with micro-steps enough runs to its response and makes the accesses of its label on. -/
theorem runEntry_accesses {n : Nat} {s t : State} (hn : entryStepsLeft s.ipc ≤ n) (h : runEntry n s = .next t) :
    blockAccesses t.trace = blockAccesses s.trace ++ entryAccessesFrom s.ipc := by
  induction n generalizing s with
  | zero =>
    cases h
    cases hp : t.ipc <;> simp [hp, entryStepsLeft] at hn
    simp [entryAccessesFrom]
  | succ n ih =>
    obtain ⟨u, hu, h⟩ := andThen_eq_next h
    obtain ⟨hfrom, hleft⟩ := entryAccessesFrom_next hu
    have hacc := entryMicro_accesses hu
    split at h
    · rename_i hidle
      cases h
      rw [hacc, hfrom, hidle]
      simp [entryAccessesFrom]
    · rw [ih (by omega) h, hacc, hfrom, List.append_assoc]

/-- An IRQ command that is not refused and runs alone reads MIS and writes ICR (R216 of 42_interrupt_wake.md). -/
theorem exec_irq_accesses {s t : State} (hq : quiet s = true) (h : exec .irq s = .next t) (hm : t.mark = false) :
    blockAccesses t.trace = blockAccesses s.trace ++ [(false, .mis), (true, .icr)] := by
  rcases startIrq_eq_next h with ⟨r, -, rfl⟩ | ⟨-, h⟩
  · simp at hm
  · obtain ⟨hsched, hbus, -⟩ := quiet_iff.mp hq
    have hquiet : entryQuiet (takeIrq .command (logCmd .irq s)) = true := entryQuiet_iff.mpr ⟨hsched, hbus⟩
    rw [advanceEntry, if_pos hquiet] at h
    simpa [blockAccesses, entryAccessesFrom] using runEntry_accesses (Nat.le_refl 4) h

/-- Settles O55: each command's accesses are those from its first label on. -/
theorem accessMatrixOfTheCommands : Obligations.AccessMatrixOfTheCommands := by
  intro s t i hq _ _ _ h hupc hm
  refine ⟨?none, ?init, ?putc, ?getc, ?rxpend, ?ack, ?irq⟩
  case none =>
    rintro (⟨base, rfl⟩ | ⟨bytes, rfl⟩ | rfl) <;>
      exact (exec_accesses rfl rfl hq h hupc hm).trans (List.append_nil _)
  case putc =>
    rintro ⟨b, rfl⟩
    exact exec_accesses rfl rfl hq h hupc hm
  case irq =>
    rintro rfl
    exact exec_irq_accesses hq h hm
  all_goals
    rintro rfl
    exact exec_accesses rfl rfl hq h hupc hm

end Sys2Proof.Machine
end

section
/-! LIFE and BASE (R31, R32, R151, R152): what each part of a step can do to them, and when a driver comes to be. -/

namespace Sys2Proof.Machine

/-- The parameters, the lifecycle register and the base. -/
def bindView (s : State) := (s.cfg, s.life, s.base)

/-! ### The parts of a step -/

/-- Only C2 and C3 touch the lifecycle register or the base, and no other label the parameters. -/
theorem micro_bindView {s t : State} (h : micro s = .next t) :
    bindView t = bindView s ∨ (s.upc = .c2 ∧ t = raiseNullBase s) ∨ (s.upc = .c3 ∧ microC3 s = .next t) := by
  cases hp : s.upc <;> simp only [micro, hp] at h
  case c2 => cases h; exact .inr (.inl ⟨rfl, rfl⟩)
  case c3 => exact .inr (.inr ⟨rfl, h⟩)
  all_goals left
  case i1 | i2 | i3 | i4 | i5 | i6 | i7 => obtain ⟨-, rfl⟩ := microInit_next.mp h; rfl
  case p1 => obtain ⟨-, rfl⟩ := microP1_next.mp h; rfl
  case p2 => obtain ⟨-, rfl⟩ := microP2_next.mp h; rfl
  case g1 => obtain ⟨-, rfl⟩ := microG1_next.mp h; rfl
  case g2 => obtain ⟨-, rfl⟩ := microG2_next.mp h; rfl
  case q1 => obtain ⟨-, rfl⟩ := microQ1_next.mp h; rfl
  case a1 => obtain ⟨-, rfl⟩ := microA1_next.mp h; rfl
  case d1 => rcases microD1_next.mp h with ⟨-, rfl⟩ | ⟨-, rfl⟩ <;> rfl
  case d2 => obtain ⟨-, ⟨-, rfl⟩ | ⟨-, rfl⟩⟩ := microD2_next.mp h <;> rfl
  case d3 => obtain ⟨-, rfl⟩ := microD3_next.mp h; rfl
  case d4 => obtain ⟨-, b, -, rfl⟩ := microD4_next.mp h; rfl
  case idle | c1 | i8 | b1 | ds | d5 | x1 => cases h; rfl

/-- Outside RESET no micro-step touches the parameters, the lifecycle register or the base. -/
theorem BlockInv.bindView_of_micro {s t : State} (hs : BlockInv s) (hlife : s.life ≠ .reset) (h : micro s = .next t) :
    bindView t = bindView s := by
  rcases micro_bindView h with hv | ⟨hp, -⟩ | ⟨hp, -⟩
  · exact hv
  all_goals exact absurd (hs.constructPhase (by rw [hp]; rfl)) hlife

theorem entryMicro_bindView {s t : State} (h : entryMicro s = .next t) : bindView t = bindView s := by
  rcases entryMicro_eq_next h with ⟨-, rfl⟩ | ⟨-, rfl⟩ | ⟨-, -, rfl⟩ | ⟨-, rfl⟩ | ⟨-, -, rfl⟩ <;> simp [bindView]

theorem Opening.keeps_bindView {u v : State} (h : Opening u v) : bindView v = bindView u := by
  cases h with
  | proceed | badOpcode | interrupt => rfl
  | other | refused => simp [bindView]
  | @accepted i => cases i <;> rfl

theorem SameButInputs.keeps_bindView {s u : State} (h : SameButInputs s u) : bindView u = bindView s := by
  obtain ⟨_, _, _, _, rfl⟩ := h
  rfl

theorem applyMove_bindView {m : Move} (hm : m ≠ .reset) (s : State) : bindView (applyMove m s) = bindView s := by
  cases m with
  | reset => exact absurd rfl hm
  | _ => rfl

/-! ### Outside RESET -/

/-- Outside RESET only the reset input touches the lifecycle register or the base. -/
theorem step_bindView {s t : State} (hs : BlockInv s) (hlife : s.life ≠ .reset)
    (hreset : ∀ rest, s.sched ≠ .reset :: rest) (h : step s = .next t) : bindView t = bindView s := by
  rcases step_opens h with ⟨m, rest, hm, -, rfl⟩ | ⟨u, v, hu, hv, ht⟩
  · have hne : m ≠ .reset := fun h => hreset rest (h ▸ hm)
    exact applyMove_bindView hne _
  have hkeep : BlockInv t ∧ bindView t = bindView s := by
    refine ht.keeps (P := fun w => BlockInv w ∧ bindView w = bindView s) ?_ ?_ ?_
    · exact ⟨(hs.of_sameButInputs hu).after_opening hv, hv.keeps_bindView.trans hu.keeps_bindView⟩
    · rintro w x ⟨hw, hws⟩ hm
      have hwlife : w.life = s.life := congrArg (·.2.1) hws
      exact ⟨hw.after_micro hm, (hw.bindView_of_micro (hwlife ▸ hlife) hm).trans hws⟩
    · rintro w x ⟨hw, hws⟩ hm
      exact ⟨hw.after_entryMicro hm, (entryMicro_bindView hm).trans hws⟩
  exact hkeep.2

/-! ### From RESET -/

/-- What C3 leaves: a bound base, and everything else of the driver as constructed, nothing in progress (R150). -/
structure NewDriver (s : State) : Prop where
  baseBound : s.base ≠ 0
  noWake : s.wake = none
  noCount : s.irqcnt = 0
  noOperation : s.opst = .none
  idle : s.upc = .idle
  entryIdle : s.ipc = .idle

/-- A micro-step that makes the block READY leaves a new driver. -/
theorem BlockInv.newDriver_of_micro {s t : State} (hs : BlockInv s) (h : micro s = .next t) (hlife : s.life ≠ .ready)
    (ht : t.life = .ready) : NewDriver t := by
  rcases micro_bindView h with hv | ⟨hp, rfl⟩ | ⟨hp, h⟩
  · exact absurd ((congrArg (·.2.1) hv).symm.trans ht) hlife
  · exact nomatch ht
  · obtain ⟨-, -, hipc⟩ := hs.of_constructing (by rw [hp]; rfl)
    cases h
    exact ⟨hs.bindPhase hp, rfl, rfl, rfl, rfl, hipc⟩

/-- A driver just made has nothing in progress: no micro-step does anything. -/
theorem NewDriver.micro_eq {s : State} (hs : NewDriver s) : micro s = .next s := by simp only [micro, hs.idle]

theorem NewDriver.entryMicro_eq {s : State} (hs : NewDriver s) : entryMicro s = .next s := by
  simp only [entryMicro, hs.entryIdle]

/-- Micro-steps from a state that is not READY make a new driver or none. -/
theorem MicroSteps.newDriver {v t : State} (h : MicroSteps v t) (hv : BlockInv v) (hlife : v.life ≠ .ready)
    (ht : t.life = .ready) : NewDriver t := by
  have hkeep : BlockInv t ∧ (t.life = .ready → NewDriver t) := by
    refine h.keeps (P := fun w => BlockInv w ∧ (w.life = .ready → NewDriver w)) ⟨hv, fun h => absurd h hlife⟩ ?_ ?_
    · rintro w x ⟨hw, hnew⟩ hm
      refine ⟨hw.after_micro hm, fun hx => ?_⟩
      by_cases hready : w.life = .ready
      · obtain rfl := Host.Outcome.next.inj ((hnew hready).micro_eq.symm.trans hm)
        exact hnew hready
      · exact hw.newDriver_of_micro hm hready hx
    · rintro w x ⟨hw, hnew⟩ hm
      refine ⟨hw.after_entryMicro hm, fun hx => ?_⟩
      have hready : w.life = .ready := (congrArg (·.2.1) (entryMicro_bindView hm)).symm.trans hx
      obtain rfl := Host.Outcome.next.inj ((hnew hready).entryMicro_eq.symm.trans hm)
      exact hnew hready
  exact hkeep.2 ht

/-- A step into READY comes from RESET and makes a new driver. -/
theorem step_into_ready {s t : State} (hs : BlockInv s) (hlife : s.life ≠ .ready) (h : step s = .next t)
    (ht : t.life = .ready) : s.life = .reset ∧ NewDriver t := by
  have hno : ∀ rest, s.sched ≠ .reset :: rest := by
    intro rest hr
    rw [step_of_scheduled hr nofun] at h
    cases h
    exact nomatch ht
  have hmoved : bindView t ≠ bindView s := fun hv => hlife ((congrArg (·.2.1) hv).symm.trans ht)
  refine ⟨by_contra fun hne => hmoved (step_bindView hs hne hno h), ?_⟩
  rcases step_opens h with ⟨m, rest, hm, -, rfl⟩ | ⟨u, v, hu, hv, hrun⟩
  · exact absurd (applyMove_bindView (fun hr => hno rest (hr ▸ hm)) _) hmoved
  · have hvlife : v.life = s.life := congrArg (·.2.1) (hv.keeps_bindView.trans hu.keeps_bindView)
    exact hrun.newDriver ((hs.of_sameButInputs hu).after_opening hv) (hvlife ▸ hlife) ht

/-! ### The parameters -/

/-- No micro-step touches the parameters. -/
theorem micro_cfg {s t : State} (h : micro s = .next t) : t.cfg = s.cfg := by
  rcases micro_bindView h with hv | ⟨-, rfl⟩ | ⟨-, h⟩
  · exact congrArg Prod.fst hv
  · rfl
  · cases h
    rfl

/-- No step touches the parameters. -/
theorem step_cfg {s t : State} (h : step s = .next t) : t.cfg = s.cfg := by
  rcases step_opens h with ⟨m, rest, -, -, rfl⟩ | ⟨u, v, hu, hv, ht⟩
  · cases m <;> rfl
  · exact ht.keeps (P := fun w => w.cfg = s.cfg) (congrArg Prod.fst (hv.keeps_bindView.trans hu.keeps_bindView))
      (fun _ _ hw hm => (micro_cfg hm).trans hw)
      (fun _ _ hw hm => (congrArg Prod.fst (entryMicro_bindView hm)).trans hw)

/-- Settles O56: outside RESET the binding stays, and from RESET only C3 makes a driver. -/
theorem baseIsBoundOnce : Obligations.BaseIsBoundOnce := by
  intro s t hs h
  refine ⟨step_cfg h, fun hlife hno => ?_, fun hlife ht => ?_⟩
  · have hv := step_bindView hs (by simp [hlife]) hno h
    exact ⟨(congrArg (·.2.1) hv).trans hlife, congrArg (·.2.2) hv⟩
  · obtain ⟨hreset, hnew⟩ := step_into_ready hs hlife h ht
    exact ⟨hreset, hnew.baseBound, hnew.noWake, hnew.noCount, hnew.noOperation⟩

end Sys2Proof.Machine
end

section
/-! The record of an operation's DR writes (R42 e, R61) grows as the trace does. -/

namespace Sys2Proof.Machine

@[simp] theorem dataWritesOf_append (xs ys : List Event) :
    dataWritesOf (xs ++ ys) = dataWritesOf xs ++ dataWritesOf ys := by
  induction xs with
  | nil => rfl
  | cons e xs ih =>
    cases e with
    | write r _ v =>
      cases r with
      | dr => exact congrArg (v :: ·) ih
      | _ => exact ih
    | _ => exact ih

/-- From s to t the trace and the record grow by the same DR writes. -/
def Recorded (s t : State) : Prop :=
  ∃ es, t.trace = s.trace ++ es ∧ t.ghost.opWrites = s.ghost.opWrites ++ dataWritesOf es

theorem Recorded.trans {s u t : State} (h1 : Recorded s u) (h2 : Recorded u t) : Recorded s t := by
  obtain ⟨es, htr, hw⟩ := h1
  obtain ⟨fs, htr', hw'⟩ := h2
  exact ⟨es ++ fs, by rw [htr', htr, List.append_assoc], by rw [hw', hw, dataWritesOf_append, List.append_assoc]⟩

/-- Events that are no DR write of the block leave the record as it is. -/
theorem Recorded.of_no_write {s t : State} (es : List Event) (htr : t.trace = s.trace ++ es)
    (hw : t.ghost.opWrites = s.ghost.opWrites) (hes : dataWritesOf es = []) : Recorded s t :=
  ⟨es, htr, by rw [hw, hes, List.append_nil]⟩

theorem Recorded.refl (s : State) : Recorded s s := .of_no_write [] (List.append_nil _).symm rfl rfl

/-- A micro-step during an operation ends it with its command, or records what it writes to DR: D4 its byte, every other
label nothing. -/
theorem BlockInv.recorded_of_micro {s t : State} (hs : BlockInv s) (hop : s.opst ≠ .none) (h : micro s = .next t) :
    (t.opst = .none ∧ t.upc = .idle) ∨ (t.opst ≠ .none ∧ Recorded s t) := by
  have hlabel : s.upc ≠ .idle → operating s.upc = true := fun hidle => (hs.operationPhase hidle).mpr hop
  cases hp : s.upc <;> simp only [micro, hp] at h hlabel
  case idle => cases h; exact .inr ⟨hop, .refl s⟩
  case d1 =>
    rcases microD1_next.mp h with ⟨-, rfl⟩ | ⟨-, rfl⟩
    · exact .inr ⟨nofun, .of_no_write [.rsp .command (.complete s.cur)] rfl rfl rfl⟩
    · exact .inr ⟨hop, .of_no_write [] (List.append_nil _).symm rfl rfl⟩
  case d2 =>
    obtain ⟨-, ⟨-, rfl⟩ | ⟨-, rfl⟩⟩ := microD2_next.mp h
    · exact .inr ⟨hop, .of_no_write [_] rfl rfl rfl⟩
    · exact .inr ⟨nofun, .of_no_write [_] rfl rfl rfl⟩
  case ds => cases h; exact .inr ⟨nofun, .of_no_write [.rsp .command .suspended] rfl rfl rfl⟩
  case d3 =>
    obtain ⟨-, rfl⟩ := microD3_next.mp h
    exact .inr ⟨hop, .of_no_write [_] rfl rfl rfl⟩
  case d4 =>
    obtain ⟨-, b, -, rfl⟩ := microD4_next.mp h
    exact .inr ⟨hop, [.write .dr (regAddr s .dr) (zext32 b)], rfl, rfl⟩
  case d5 => cases h; exact .inr ⟨hop, .of_no_write [] (List.append_nil _).symm rfl rfl⟩
  case x1 => cases h; exact .inl ⟨rfl, rfl⟩
  all_goals exact absurd (hlabel nofun) (by decide)

/-- A micro-step of the entry writes nothing to DR, and leaves the operation and the foreground's phase alone. -/
theorem recorded_of_entryMicro {s t : State} (h : entryMicro s = .next t) :
    t.opst = s.opst ∧ t.upc = s.upc ∧ Recorded s t := by
  rcases entryMicro_eq_next h with ⟨-, rfl⟩ | ⟨-, rfl⟩ | ⟨-, -, rfl⟩ | ⟨-, rfl⟩ | ⟨-, -, rfl⟩
  · exact ⟨rfl, rfl, .refl _⟩
  · exact ⟨rfl, rfl, .of_no_write [] (List.append_nil _).symm rfl rfl⟩
  · exact ⟨rfl, rfl, .of_no_write [_] rfl rfl rfl⟩
  · refine ⟨by simp, by simp, ?_⟩
    cases hw : s.wake with
    | none => exact .of_no_write [] (by simp [fireWake_none s hw]) (by simp) rfl
    | some w => exact .of_no_write [.wakeOut w] (by simp [fireWake_some s hw]) (by simp) rfl
  · exact ⟨by simp, by simp, .of_no_write [.write .icr (regAddr s .icr) s.cfg.clearAll, .rsp s.irqPort .ok] (by simp)
      (by simp) rfl⟩

/-- No opening of a step writes to DR for the block or touches the operation. -/
theorem Opening.recorded {u v : State} (h : Opening u v) : v.opst = u.opst ∧ Recorded u v := by
  cases h with
  | proceed => exact ⟨rfl, .refl _⟩
  | other r a => cases a <;> exact ⟨rfl, .of_no_write [_] rfl rfl rfl⟩
  | badOpcode op =>
    exact ⟨rfl, .of_no_write [.badOpcode op, .rsp .command (.refused .badOpcode)] (by simp [refuseOpcode]) rfl rfl⟩
  | refused p r i => exact ⟨by simp, .of_no_write [.cmd i, .rsp p (.refused r)] (by simp) (by simp) rfl⟩
  | interrupt p => exact ⟨rfl, .of_no_write [.cmd .irq] rfl rfl rfl⟩
  | @accepted i => cases i <;> exact ⟨rfl, .of_no_write [_] rfl rfl rfl⟩

/-- During a step from s: the invariant, and the operation has ended with its command or the record is the trace's. -/
structure RecordedWhileAlive (s t : State) : Prop where
  inv : BlockInv t
  record : (t.opst = .none ∧ t.upc = .idle) ∨ (t.opst ≠ .none ∧ Recorded s t)

theorem RecordedWhileAlive.after_micro {s u t : State} (hu : RecordedWhileAlive s u) (h : micro u = .next t) :
    RecordedWhileAlive s t := by
  refine ⟨hu.inv.after_micro h, ?_⟩
  rcases hu.record with ⟨hop, hupc⟩ | ⟨hop, hrec⟩
  · simp only [micro, hupc, Host.Outcome.next.injEq] at h
    exact .inl (h ▸ ⟨hop, hupc⟩)
  · exact (hu.inv.recorded_of_micro hop h).imp id (.imp id hrec.trans)

theorem RecordedWhileAlive.after_entryMicro {s u t : State} (hu : RecordedWhileAlive s u)
    (h : entryMicro u = .next t) : RecordedWhileAlive s t := by
  obtain ⟨hop, hupc, hrec⟩ := recorded_of_entryMicro h
  refine ⟨hu.inv.after_entryMicro h, ?_⟩
  rw [hop, hupc]
  exact hu.record.imp id (.imp id (·.trans hrec))

/-- Settles O60: the opening of a step and each of its micro-steps record the DR writes they make, until the operation
ends. -/
theorem operationWritesAreTheTraces : Obligations.OperationWritesAreTheTraces := by
  intro s t hs hop h ht
  rcases step_opens h with ⟨m, rest, -, -, rfl⟩ | ⟨u, v, hu, hv, hrun⟩
  · cases m with
    | reset => exact absurd rfl ht
    | _ => exact Recorded.of_no_write [] (List.append_nil _).symm rfl rfl
  · have hinv := (hs.of_sameButInputs hu).after_opening hv
    obtain ⟨_, _, _, _, rfl⟩ := hu
    obtain ⟨hvop, hvrec⟩ := hv.recorded
    have hv : RecordedWhileAlive s v := ⟨hinv, .inr ⟨hvop ▸ hop, hvrec⟩⟩
    have hend := hrun.keeps hv (fun _ _ hw => hw.after_micro) (fun _ _ hw => hw.after_entryMicro)
    exact (hend.record.resolve_left fun hnone => ht hnone.1).2

end Sys2Proof.Machine
end

section
/-! The register rows (R44 to R57, R124): the decoder of the register side at the eleven offsets and elsewhere, and the
rows as another master's accesses. -/

namespace Sys2Proof

/-- The instruction of an access at a register. -/
def rowOf : Reg → Access → Instr
  | .dr, a => .dr a
  | .fr, _ => .fr
  | .ibrd, a => .ibrd a
  | .fbrd, a => .fbrd a
  | .lcrh, a => .lcrh a
  | .cr, a => .cr a
  | .ifls, a => .ifls a
  | .imsc, a => .imsc a
  | .ris, _ => .ris
  | .mis, _ => .mis
  | .icr, a => .icr a

theorem rowReg_rowOf (r : Reg) (a : Access) : Machine.rowReg (rowOf r a) = some r := by cases r <;> rfl

/-- The registers another master may not write (R44, R46, R54, R55). -/
def ReadOnly (r : Reg) : Prop := r = .fr ∨ r = .ris ∨ r = .mis

theorem not_readOnly {r : Reg} : ¬ ReadOnly r ↔ r ≠ .fr ∧ r ≠ .ris ∧ r ≠ .mis := by simp [ReadOnly]

/-- At a register's offset every access but a write of a read-only register is the register's row. -/
theorem decodeTxn_of_row {t : Txn} {r : Reg} (h : t.off = BitVec.ofNat 12 (regOffset r))
    (hw : t.write = true → ¬ ReadOnly r) : decodeTxn t = .ok (rowOf r t.access) := by
  obtain ⟨write, off, data⟩ := t
  cases h
  cases r <;> cases write <;> simp_all [ReadOnly, decodeTxn, decodeReadOnly, regOffset, rowOf]

/-- A write of a read-only register is an error of that register. -/
theorem decodeTxn_of_readOnly {t : Txn} {r : Reg} (h : t.off = BitVec.ofNat 12 (regOffset r)) (hw : t.write = true)
    (hr : ReadOnly r) : decodeTxn t = .error (.readOnly r) := by
  rcases hr with rfl | rfl | rfl <;> simp [decodeTxn, decodeReadOnly, regOffset, h, hw]

/-- Elsewhere there is no register (R57). -/
theorem decodeTxn_of_no_register {t : Txn} (h : ∀ r, t.off ≠ BitVec.ofNat 12 (regOffset r)) :
    decodeTxn t = .error (.noRegister t.off) := by
  have hoff : ∀ k ∈ [Reg.dr, .fr, .ibrd, .fbrd, .lcrh, .cr, .ifls, .imsc, .ris, .mis, .icr].map regOffset,
      t.off.toNat ≠ k := by
    intro k hk hoff
    obtain ⟨r, -, rfl⟩ := List.mem_map.mp hk
    exact h r (by rw [← hoff, BitVec.ofNat_toNat, BitVec.setWidth_eq])
  unfold decodeTxn
  split
  case h_12 => rfl
  all_goals
    rename_i hk
    exact absurd hk (hoff _ (by decide))

/-- What the decoder of the register side answers: a row, an error of a read-only register, or no register. -/
theorem decodeTxn_cases (t : Txn) :
    (∃ r, t.off = BitVec.ofNat 12 (regOffset r) ∧ (t.write = true → ¬ ReadOnly r) ∧
      decodeTxn t = .ok (rowOf r t.access)) ∨
    (∃ r, t.off = BitVec.ofNat 12 (regOffset r) ∧ t.write = true ∧ ReadOnly r ∧
      decodeTxn t = .error (.readOnly r)) ∨
    ((∀ r, t.off ≠ BitVec.ofNat 12 (regOffset r)) ∧ decodeTxn t = .error (.noRegister t.off)) := by
  by_cases hr : ∃ r, t.off = BitVec.ofNat 12 (regOffset r)
  · obtain ⟨r, hr⟩ := hr
    by_cases hw : t.write = true ∧ ReadOnly r
    · exact .inr (.inl ⟨r, hr, hw.1, hw.2, decodeTxn_of_readOnly hr hw.1 hw.2⟩)
    · have hw' : t.write = true → ¬ ReadOnly r := fun h1 h2 => hw ⟨h1, h2⟩
      exact .inl ⟨r, hr, hw', decodeTxn_of_row hr hw'⟩
  · have hno : ∀ r, t.off ≠ BitVec.ofNat 12 (regOffset r) := fun r h => hr ⟨r, h⟩
    exact .inr (.inr ⟨hno, decodeTxn_of_no_register hno⟩)

/-- Settles O5: each clause from the three answers of the decoder. -/
theorem registerMapIsTheElevenRows : Obligations.RegisterMapIsTheElevenRows := by
  intro t
  refine ⟨fun i hi => ?_, fun r hr hw => ?_, fun off he => ?_, fun r he => ?_⟩
  case refine_2 => exact ⟨_, decodeTxn_of_row hr fun h => not_readOnly.mpr (hw h), rowReg_rowOf r _⟩
  all_goals rcases decodeTxn_cases t with ⟨q, hq, hw, hd⟩ | ⟨q, hq, hw, hro, hd⟩ | ⟨hno, hd⟩ <;>
    simp only [hd, reduceCtorEq, Except.ok.injEq, Except.error.injEq, TxnError.noRegister.injEq,
      TxnError.readOnly.injEq] at *
  · subst hi
    exact ⟨q, rowReg_rowOf q _, hq, fun h => not_readOnly.mp (hw h)⟩
  · exact ⟨he.symm, hno⟩
  · subst he
    exact ⟨hw, hq, hro⟩

namespace Machine

/-- A row's instruction is the access of another master at its register (R44 to R56). -/
theorem exec_rowOf (r : Reg) {a : Access} (ha : a = .read ∨ ¬ ReadOnly r) (s : State) :
    exec (rowOf r a) s = .next (otherAccess r a s) := by
  rcases ha with rfl | ha
  · cases r <;> rfl
  · obtain ⟨hfr, hris, hmis⟩ := not_readOnly.mp ha
    cases r with
    | fr => exact absurd rfl hfr
    | ris => exact absurd rfl hris
    | mis => exact absurd rfl hmis
    | _ => rfl

/-- Only a read of DR and one of FR change the peripheral. -/
theorem uartAfterRead_eq (u : Uart) (r : Reg) :
    uartAfterRead u r = { u with
      rxq := if r = .dr then u.rxq.tail else u.rxq
      frq := if r = .fr then frqAfterRead u.mode u.frq else u.frq } := by
  cases r <;> rfl

/-- Settles O26: a row read is another master's read of its register. -/
theorem registerRowReads : Obligations.RegisterRowReads := by
  intro s i r h
  have hi : i = rowOf r .read := by
    simp only [List.mem_cons, Prod.mk.injEq, List.not_mem_nil, or_false] at h
    rcases h with ⟨rfl, rfl⟩ | ⟨rfl, rfl⟩ | ⟨rfl, rfl⟩ | ⟨rfl, rfl⟩ | ⟨rfl, rfl⟩ | ⟨rfl, rfl⟩ | ⟨rfl, rfl⟩ |
      ⟨rfl, rfl⟩ | ⟨rfl, rfl⟩ | ⟨rfl, rfl⟩ | ⟨rfl, rfl⟩ <;> rfl
  rw [hi, exec_rowOf r (.inl rfl), otherAccess, uartAfterRead_eq]

/-- Settles O27: a row written is another master's write of its register. -/
theorem registerRowWrites : Obligations.RegisterRowWrites := by
  intro s v
  have hrow : ∀ r, ¬ ReadOnly r → exec (rowOf r (.write v)) s = .next (otherAccess r (.write v) s) :=
    fun r hr => exec_rowOf r (.inr hr) s
  exact ⟨hrow .dr nofun, hrow .ibrd nofun, hrow .fbrd nofun, hrow .lcrh nofun, hrow .cr nofun, hrow .ifls nofun,
    hrow .imsc nofun, hrow .icr nofun⟩

end Machine

end Sys2Proof
end

section
/-! What a step adds to the trace, to the ports and to the peripheral (R45 to R56, R77, R80, R87). -/

namespace Sys2Proof.Machine

/-! ### The peripheral under accesses -/

/-- The peripheral v is u after one read or one write, whoever makes it. -/
def AccessTo (u v : Uart) : Prop := (∃ r, v = uartAfterRead u r) ∨ ∃ r x, v = uartAfterWrite u x r

theorem AccessTo.txlog_prefix {u v : Uart} (h : AccessTo u v) : u.txlog <+: v.txlog := by
  rcases h with ⟨r, rfl⟩ | ⟨r, x, rfl⟩
  · rw [uartAfterRead_txlog]
  · cases r with
    | dr => exact List.prefix_append _ _
    | _ => exact List.prefix_rfl

/-- Clearing the bits of v leaves the others as they are. -/
theorem getLsbD_and_not (w v : Word) (j : Nat) : (w &&& ~~~ v).getLsbD j = (w.getLsbD j && !v.getLsbD j) := by
  rw [BitVec.getLsbD_and, BitVec.getLsbD_not]
  by_cases hj : j < 32
  · simp only [hj, decide_true, Bool.true_and]
  · simp only [BitVec.getLsbD_of_ge w j (by omega), Bool.false_and]

/-- No access makes a source pending. -/
theorem AccessTo.not_pending {u v : Uart} (h : AccessTo u v) {j : Nat} (hj : u.ris.getLsbD j = false) :
    v.ris.getLsbD j = false := by
  rcases h with ⟨r, rfl⟩ | ⟨r, x, rfl⟩
  · rwa [uartAfterRead_ris]
  · cases r with
    | icr => exact (getLsbD_and_not u.ris x j).trans (by rw [hj, Bool.false_and])
    | _ => exact hj

/-! ### What each part of a step adds -/

/-- What the outside sees of the block: the trace, the ports, and the peripheral. -/
def outputs (s : State) := (s.trace, s.rspOut, s.irqDone, s.wakeOut, s.uart)

/-- From s to t the trace and the ports only grow, and the peripheral changes by accesses only. -/
structure Progress (s t : State) : Prop where
  trace : s.trace <+: t.trace
  rspOut : s.rspOut <+: t.rspOut
  irqDone : s.irqDone <+: t.irqDone
  wakeOut : s.wakeOut <+: t.wakeOut
  accesses : Relation.ReflTransGen AccessTo s.uart t.uart

theorem Progress.refl (s : State) : Progress s s :=
  ⟨List.prefix_rfl, List.prefix_rfl, List.prefix_rfl, List.prefix_rfl, .refl⟩

theorem Progress.trans {s u t : State} (h1 : Progress s u) (h2 : Progress u t) : Progress s t :=
  ⟨h1.trace.trans h2.trace, h1.rspOut.trans h2.rspOut, h1.irqDone.trans h2.irqDone, h1.wakeOut.trans h2.wakeOut,
    h1.accesses.trans h2.accesses⟩

/-- Progress is a matter of the outputs only. -/
theorem Progress.congr {s t t' : State} (h : Progress s t) (hout : outputs t' = outputs t) : Progress s t' := by
  simp only [outputs, Prod.mk.injEq] at hout
  obtain ⟨htr, hrsp, hdone, hwake, huart⟩ := hout
  exact ⟨htr ▸ h.trace, hrsp ▸ h.rspOut, hdone ▸ h.irqDone, hwake ▸ h.wakeOut, huart ▸ h.accesses⟩

theorem Progress.of_eq {s t : State} (hout : outputs t = outputs s) : Progress s t := (Progress.refl s).congr hout

theorem Progress.read (s : State) (r : Reg) : Progress s (afterRead s r) :=
  ⟨List.prefix_append _ _, List.prefix_rfl, List.prefix_rfl, List.prefix_rfl, .single (.inl ⟨r, rfl⟩)⟩

theorem Progress.write (s : State) (r : Reg) (v : Word) : Progress s (afterWrite s r v) :=
  ⟨List.prefix_append _ _, List.prefix_rfl, List.prefix_rfl, List.prefix_rfl, .single (.inr ⟨r, v, rfl⟩)⟩

theorem Progress.other (s : State) (r : Reg) (a : Access) : Progress s (otherAccess r a s) := by
  cases a with
  | read => exact ⟨List.prefix_append _ _, List.prefix_rfl, List.prefix_rfl, List.prefix_rfl, .single (.inl ⟨r, rfl⟩)⟩
  | write v =>
    exact ⟨List.prefix_append _ _, List.prefix_rfl, List.prefix_rfl, List.prefix_rfl, .single (.inr ⟨r, v, rfl⟩)⟩

theorem Progress.response (s : State) (p : IrqPort) (x : Response) : Progress s (placeResponse p x s) := by
  cases p with
  | command =>
    exact ⟨List.prefix_append _ _, List.prefix_append _ _, List.prefix_rfl, List.prefix_rfl, .refl⟩
  | request =>
    exact ⟨List.prefix_append _ _, List.prefix_rfl, List.prefix_append _ _, List.prefix_rfl, .refl⟩

theorem Progress.respond (s : State) (x : Response) : Progress s (respond x s) :=
  (Progress.response s .command x).congr rfl

theorem Progress.logCmd (s : State) (i : Instr) : Progress s (logCmd i s) :=
  ⟨List.prefix_append _ _, List.prefix_rfl, List.prefix_rfl, List.prefix_rfl, .refl⟩

theorem Progress.fireWake (s : State) : Progress s (fireWake s) := by
  cases hw : s.wake with
  | none => rw [fireWake_none s hw]; exact .refl s
  | some w =>
    rw [fireWake_some s hw]
    exact ⟨List.prefix_append _ _, List.prefix_rfl, List.prefix_rfl, List.prefix_append _ _, .refl⟩

/-- A foreground micro-step makes at most one access, then responds or not. -/
theorem Progress.of_micro {s t : State} (h : micro s = .next t) : Progress s t := by
  cases hp : s.upc <;> simp only [micro, hp] at h
  case i1 | i2 | i3 | i4 | i5 | i6 | i7 =>
    obtain ⟨-, rfl⟩ := microInit_next.mp h
    exact (Progress.write s _ _).congr rfl
  case p1 => obtain ⟨-, rfl⟩ := microP1_next.mp h; exact (Progress.read s .fr).congr rfl
  case g1 => obtain ⟨-, rfl⟩ := microG1_next.mp h; exact (Progress.read s .fr).congr rfl
  case d2 => obtain ⟨-, ⟨-, rfl⟩ | ⟨-, rfl⟩⟩ := microD2_next.mp h <;> exact (Progress.read s .fr).congr rfl
  case d3 => obtain ⟨-, rfl⟩ := microD3_next.mp h; exact (Progress.read s .fr).congr rfl
  case g2 => obtain ⟨-, rfl⟩ := microG2_next.mp h; exact ((Progress.read s .dr).trans (.respond _ _)).congr rfl
  case q1 => obtain ⟨-, rfl⟩ := microQ1_next.mp h; exact ((Progress.read s .mis).trans (.respond _ _)).congr rfl
  case p2 => obtain ⟨-, rfl⟩ := microP2_next.mp h; exact (Progress.write s .dr _).trans (.respond _ _)
  case a1 => obtain ⟨-, rfl⟩ := microA1_next.mp h; exact (Progress.write s .icr _).trans (.respond _ _)
  case d4 => obtain ⟨-, b, -, rfl⟩ := microD4_next.mp h; exact (Progress.write s .dr _).congr rfl
  case d1 =>
    rcases microD1_next.mp h with ⟨-, rfl⟩ | ⟨-, rfl⟩
    · exact (Progress.respond s _).congr rfl
    · exact .of_eq rfl
  case idle | c1 | d5 => cases h; exact .of_eq rfl
  case c2 | c3 | i8 | b1 | ds | x1 => cases h; exact (Progress.respond s _).congr rfl

/-- A micro-step of the entry makes an access, or fires, or does neither. -/
theorem Progress.of_entryMicro {s t : State} (h : entryMicro s = .next t) : Progress s t := by
  rcases entryMicro_eq_next h with ⟨-, rfl⟩ | ⟨-, rfl⟩ | ⟨-, -, rfl⟩ | ⟨-, rfl⟩ | ⟨-, -, rfl⟩
  · exact .refl _
  · exact .of_eq rfl
  · exact (Progress.read s .mis).congr rfl
  · exact (Progress.fireWake s).congr rfl
  · exact ((Progress.write s .icr _).trans (.response _ s.irqPort .ok)).congr rfl

theorem Opening.progress {u v : State} (h : Opening u v) : Progress u v := by
  cases h with
  | proceed => exact .refl u
  | other r a => exact .other u r a
  | badOpcode op =>
    exact ⟨⟨[.badOpcode op, .rsp .command (.refused .badOpcode)], by simp [refuseOpcode]⟩, List.prefix_append _ _,
      List.prefix_rfl, List.prefix_rfl, .refl⟩
  | refused p r i => exact ((Progress.logCmd u i).trans (.response _ p (.refused r))).congr rfl
  | interrupt p => exact (Progress.logCmd u .irq).congr rfl
  | @accepted i => exact (Progress.logCmd u i).congr (by cases i <;> rfl)

theorem SameButInputs.progress {s u : State} (h : SameButInputs s u) : Progress s u := by
  obtain ⟨_, _, _, _, rfl⟩ := h
  exact .of_eq rfl

/-- A step is a scheduled move of an outside agent, or it adds to the outputs and makes accesses only. -/
theorem step_progress {s t : State} (h : step s = .next t) :
    (∃ m rest, s.sched = m :: rest ∧ t = applyMove m { s with sched := rest }) ∨ Progress s t := by
  rcases step_opens h with ⟨m, rest, hm, -, rfl⟩ | ⟨u, v, hu, hv, ht⟩
  · exact .inl ⟨m, rest, hm, rfl⟩
  · exact .inr (ht.keeps (P := Progress s) (hu.progress.trans hv.progress)
      (fun _ _ hw hm => hw.trans (.of_micro hm)) (fun _ _ hw hm => hw.trans (.of_entryMicro hm)))

/-! ### The trace and the ports -/

/-- Accesses add to the transmit log only. -/
theorem Progress.txlog {s t : State} (h : Progress s t) : s.uart.txlog <+: t.uart.txlog :=
  h.accesses.head_induction_on List.prefix_rfl fun hfirst _ ih => hfirst.txlog_prefix.trans ih

theorem oracleOnly_cases (f : Uart → Uart) (u : Uart) : oracleOnly f u = f u ∨ oracleOnly f u = u := by
  cases hm : u.mode with
  | oracle => exact .inl (oracleOnly_of_oracle f hm)
  | mock => exact .inr (oracleOnly_of_mock f hm)

theorem scriptMock_cases (f : Uart → Uart) (u : Uart) : scriptMock f u = f u ∨ scriptMock f u = u := by
  cases hm : u.mode with
  | oracle => exact .inr (scriptMock_of_oracle f hm)
  | mock => exact .inl (scriptMock_of_mock f hm)

/-- No outside move changes the transmit log. -/
theorem applyMove_txlog (m : Move) (s : State) : (applyMove m s).uart.txlog = s.uart.txlog := by
  cases m with
  | mask v => rcases oracleOnly_cases (fun u => { u with imsc := v }) s.uart with hu | hu <;> simp only [applyMove, hu]
  | mockRxq ws =>
    rcases scriptMock_cases (fun u => { u with rxq := ws }) s.uart with hu | hu <;> simp only [applyMove, hu]
  | mockRis v =>
    rcases scriptMock_cases (fun u => { u with ris := v }) s.uart with hu | hu <;> simp only [applyMove, hu]
  | _ => rfl

/-- Settles O57: the outside moves touch none of the histories, and the rest of a step only adds to them. -/
theorem traceAndPortsOnlyGrow : Obligations.TraceAndPortsOnlyGrow := by
  intro s t h
  rcases step_progress h with ⟨m, rest, -, rfl⟩ | hst
  · rw [applyMove_txlog]
    cases m <;> exact ⟨List.prefix_rfl, List.prefix_rfl, List.prefix_rfl, List.prefix_rfl, List.prefix_rfl⟩
  · exact ⟨hst.trace, hst.rspOut, hst.irqDone, hst.wakeOut, hst.txlog⟩

/-! ### The pending sources -/

theorem Progress.not_pending {s t : State} (h : Progress s t) {j : Nat} (hj : s.uart.ris.getLsbD j = false) :
    t.uart.ris.getLsbD j = false :=
  h.accesses.head_induction_on
    (motive := fun u _ => u.ris.getLsbD j = false → t.uart.ris.getLsbD j = false)
    id (fun hfirst _ ih hu => ih (hfirst.not_pending hu)) hj

/-- An outside move that is neither the peripheral's raise nor the mock's script makes no source pending. -/
theorem applyMove_not_pending {m : Move} (hraise : ∀ v, m ≠ .raise v) (hmock : ∀ v, m ≠ .mockRis v) {s : State}
    {j : Nat} (hj : s.uart.ris.getLsbD j = false) : (applyMove m s).uart.ris.getLsbD j = false := by
  cases m with
  | raise v => exact absurd rfl (hraise v)
  | mockRis v => exact absurd rfl (hmock v)
  | lower v => exact (getLsbD_and_not s.uart.ris v j).trans (by rw [hj, Bool.false_and])
  | mask w => rcases oracleOnly_cases (fun u => { u with imsc := w }) s.uart with hu | hu <;> simpa only [applyMove, hu]
  | mockRxq ws =>
    rcases scriptMock_cases (fun u => { u with rxq := ws }) s.uart with hu | hu <;> simpa only [applyMove, hu]
  | _ => exact hj

/-- Settles O25: write-1-to-clear bit by bit; accesses only clear, so a rise is an outside move's. -/
theorem pendingSourcesClearAndRise : Obligations.PendingSourcesClearAndRise := by
  refine ⟨fun u v => getLsbD_and_not u.ris v, fun s v rest hs => ?_, fun s t j h hs ht => ?_⟩
  · exact ⟨_, step_of_scheduled hs nofun, fun j => BitVec.getLsbD_or⟩
  · rcases step_progress h with ⟨m, rest, hm, rfl⟩ | hst
    · by_contra hno
      have hfalse := applyMove_not_pending (m := m) (fun v hv => hno ⟨v, rest, .inl (hv ▸ hm)⟩)
        (fun v hv => hno ⟨v, rest, .inr (hv ▸ hm)⟩) (s := { s with sched := rest }) hs
      exact Bool.false_ne_true (hfalse.symm.trans ht)
    · exact absurd ht (by rw [hst.not_pending hs]; exact Bool.false_ne_true)

end Sys2Proof.Machine
end

section
/-! What a read answers, after an acknowledge and after a write (R53 to R55, R86 to R92). -/

namespace Sys2Proof.Machine

/-! ### After ACK and IRQ (R87 to R89) -/

/-- No source of CLEAR_ALL is pending. -/
def Cleared (s : State) : Prop := s.uart.ris &&& s.cfg.clearAll = 0#32

/-- The write of CLEAR_ALL to ICR clears its sources (R87). -/
theorem cleared_afterWrite_icr (s : State) : Cleared (afterWrite s .icr s.cfg.clearAll) :=
  calc s.uart.ris &&& ~~~ s.cfg.clearAll &&& s.cfg.clearAll
    _ = s.uart.ris &&& (s.cfg.clearAll &&& ~~~ s.cfg.clearAll) := by
      rw [BitVec.and_assoc, BitVec.and_comm (~~~ _)]
    _ = 0#32 := by rw [BitVec.and_not_self]; exact BitVec.and_zero

/-- An ACK under these parameters is at its one label, or has completed and cleared (R160 of 40_driver_ops.md). -/
def AckOrCleared (c : Config) (s : State) : Prop := s.cfg = c ∧ (s.upc = .a1 ∨ s.upc = .idle ∧ Cleared s)

theorem AckOrCleared.after_micro {c : Config} {s t : State} (hs : AckOrCleared c s) (h : micro s = .next t) :
    AckOrCleared c t := by
  refine ⟨(micro_cfg h).trans hs.1, .inr ?_⟩
  rcases hs.2 with ha1 | ⟨hidle, hc⟩
  · simp only [micro, ha1] at h
    obtain ⟨-, rfl⟩ := microA1_next.mp h
    exact ⟨rfl, cleared_afterWrite_icr s⟩
  · simp only [micro, hidle, Host.Outcome.next.injEq] at h
    exact h ▸ ⟨hidle, hc⟩

/-- An entry under these parameters is in progress, or has completed and cleared (R215 of 42_interrupt_wake.md). -/
def EntryOrCleared (c : Config) (s : State) : Prop := s.cfg = c ∧ (s.ipc = .idle → Cleared s)

theorem EntryOrCleared.after_entryMicro {c : Config} {s t : State} (hs : EntryOrCleared c s)
    (h : entryMicro s = .next t) : EntryOrCleared c t := by
  refine ⟨(congrArg Prod.fst (entryMicro_bindView h)).trans hs.1, fun ht => ?_⟩
  rcases entryMicro_eq_next h with ⟨-, rfl⟩ | ⟨-, rfl⟩ | ⟨-, -, rfl⟩ | ⟨-, rfl⟩ | ⟨-, -, rfl⟩
  · exact hs.2 ht
  · exact nomatch ht
  · exact absurd ht (by cases wakeCondition s.cfg (answer s .mis) <;> exact nofun)
  · exact nomatch ht
  · simpa only [Cleared, returnIrq_uart, returnIrq_cfg] using cleared_afterWrite_icr s

/-- A completed ACK, and a completed IRQ, has cleared, under the parameters it began with. -/
theorem cleared_of_completed {s t : State}
    (h : exec .ack s = .next t ∧ DriverFree s ∧ t.upc = .idle ∨
      exec .irq s = .next t ∧ s.life = .ready ∧ t.ipc = .idle) :
    t.cfg = s.cfg ∧ Cleared t := by
  rcases h with ⟨h, hd, ht⟩ | ⟨h, hlife, ht⟩
  · rw [exec_of_admitted (i := .ack) rfl hd] at h
    have hend : AckOrCleared s.cfg t := by
      refine accept_keeps (AckOrCleared s.cfg) (fun _ _ hu => hu.after_micro) ?_ h
      exact ⟨rfl, .inl rfl⟩
    exact ⟨hend.1, (hend.2.resolve_left (by simp [ht])).2⟩
  · rw [execIrq_of_ready hlife] at h
    have hend : EntryOrCleared s.cfg t := by
      refine advanceEntry_keeps (EntryOrCleared s.cfg) (fun _ _ hu => hu.after_entryMicro) ?_ h
      exact ⟨rfl, nofun⟩
    exact ⟨hend.1, hend.2 ht⟩

/-- A word with no bit of c has none of a word all of whose bits c has. -/
theorem and_eq_zero_of_and_eq {w c m : Word} (hw : w &&& c = 0#32) (hm : c &&& m = m) : w &&& m = 0#32 := by
  rw [← hm, ← BitVec.and_assoc, hw, BitVec.zero_and]

/-- A mask with no bit outside c is all in c. -/
theorem and_eq_of_and_not_eq_zero {c m : Word} (h : m &&& ~~~ c = 0#32) : c &&& m = m := by
  refine BitVec.eq_of_getLsbD_eq fun j _ => ?_
  have hbit : (m.getLsbD j && !c.getLsbD j) = false := by rw [← getLsbD_and_not, h, BitVec.getLsbD_zero]
  rw [BitVec.getLsbD_and]
  cases hc : c.getLsbD j with
  | true => exact Bool.true_and _
  | false => simpa [hc] using hbit.symm

/-- Settles O24: what completed has cleared CLEAR_ALL, which holds the implemented sources. -/
theorem statusReadsClearAfterAcknowledge : Obligations.StatusReadsClearAfterAcknowledge := by
  intro s t hwf _ _ h
  obtain ⟨-, -, -, -, -, -, -, -, -, -, hclear⟩ := hwf
  obtain ⟨hcfg, hc⟩ := cleared_of_completed h
  rw [← hcfg] at hclear
  have hris : t.uart.ris &&& t.cfg.sourceBits = 0#32 := and_eq_zero_of_and_eq hc hclear
  refine ⟨hris, ?_, fun hmask => and_eq_zero_of_and_eq hc (and_eq_of_and_not_eq_zero hmask)⟩
  rw [answer_mis, BitVec.and_assoc, BitVec.and_comm t.uart.imsc, ← BitVec.and_assoc, hris, BitVec.zero_and]

/-! ### Reads after a write -/

theorem lastWritten_of_mock {u : Uart} (h : u.mode = .mock) (n : Nat) (v : Word) : lastWritten u n v = v := by
  simp only [lastWritten, h]

/-- The registers that read back on the mock: the configuration, the mask, and ICR (R92). -/
def readsBack : List Reg := [.ibrd, .fbrd, .lcrh, .cr, .ifls, .imsc, .icr]

/-- On the mock such a register answers the word just written; the mask does so in both modes. -/
theorem uartAnswer_afterWrite {u : Uart} {r : Reg} (hr : r ∈ readsBack) (hmode : u.mode = .mock ∨ r = .imsc)
    (v : Word) (n : Nat) : uartAnswer (uartAfterWrite u v r) n r = v := by
  rcases hmode with hm | rfl
  · cases r with
    | dr | fr | ris | mis => simp [readsBack] at hr
    | imsc => rfl
    | _ => exact lastWritten_of_mock ((uartAfterWrite_mode u v _).trans hm) n v
  · rfl

/-- Settles O28: the stored words and the heads of the queues by definition, the rest from what an access leaves. -/
theorem readsAnswerThePeripheral : Obligations.ReadsAnswerThePeripheral := by
  intro s
  refine ⟨rfl, rfl, rfl, fun f rest => answer_fr_cons, fun d rest => answer_dr_cons, fun hm hq => ?empty,
    fun f t hm hf h => ?repeats, fun v i r t hi hmode h => ?written, fun v w t u ht hu => ?queued⟩
  case empty => simp only [answer, uartAnswer, hq, hm]; rfl
  case repeats =>
    cases h
    exact answer_fr_cons (rest := []) (by simp [frqAfterRead, uartAfterRead, hf, hm])
  case written =>
    obtain ⟨hr, rfl⟩ : r ∈ readsBack ∧ i = rowOf r (.write v) := by
      have hall : ∀ q ∈ readsBack.map fun q => (rowOf q (.write v), q),
          q.2 ∈ readsBack ∧ q.1 = rowOf q.2 (.write v) := by simp
      exact hall _ hi
    have hro : ¬ ReadOnly r := by
      rintro (rfl | rfl | rfl) <;> simp [readsBack] at hr
    rw [exec_rowOf r (.inr hro)] at h
    cases h
    exact uartAnswer_afterWrite hr hmode v _
  case queued =>
    cases ht
    cases hu
    simp [uartAfterWrite]

end Sys2Proof.Machine
end

section
/-! Bases outside the launch premises (R71, R75, U9): the accesses are refused, and with them the commands that make
them. -/

namespace Sys2Proof.Machine

/-- Under a refusal a read is refused. -/
theorem regRead_of_refusal {s : State} {e : Refusal} (h : accessRefusal s = some e) (r : Reg) (k : Word → State → Out) :
    regRead r s k = .refused e := by
  simp only [regRead, h]

/-- Under a refusal a write is refused. -/
theorem regWrite_of_refusal {s : State} {e : Refusal} (h : accessRefusal s = some e) (r : Reg) (v : Word)
    (k : State → Out) : regWrite r v s k = .refused e := by
  simp only [regWrite, h]

/-- The two ways a base misses the launch premises, and what the model says of each. -/
theorem accessRefusal_of_unlaunchable {s : State} {e : Refusal}
    (h : s.base % 4 ≠ 0 ∧ e = .baseMisaligned ∨
      s.base % 4 = 0 ∧ 2 ^ s.cfg.aw ≤ s.base + 0x47 ∧ e = .addressOverflow) : accessRefusal s = some e := by
  rcases h with ⟨hbase, rfl⟩ | ⟨hbase, hhigh, rfl⟩
  · exact if_pos hbase
  · exact (if_neg (not_not.mpr hbase)).trans (if_pos hhigh)

/-- Without the launch premises every label that makes an access is refused; D4 looks for its byte first. -/
theorem micro_refused {s : State} {e : Refusal} (h : accessRefusal s = some e) (hacc : accessOf s.upc ≠ [])
    (hd4 : s.upc ≠ .d4) : micro s = .refused e := by
  cases hp : s.upc <;> simp only [micro, hp]
  case i1 | i2 | i3 | i4 | i5 | i6 | i7 | p2 | a1 => exact regWrite_of_refusal h _ _ _
  case p1 | g1 | g2 | q1 | d2 | d3 => exact regRead_of_refusal h _ _
  case d4 => exact absurd hp hd4
  all_goals exact absurd (by rw [hp]; rfl) hacc

/-- A run whose first label makes an access is refused without the launch premises. -/
theorem runMicros_refused {n : Nat} {s : State} {e : Refusal} (h : accessRefusal s = some e)
    (hacc : accessOf s.upc ≠ []) (hd4 : s.upc ≠ .d4) : runMicros (n + 1) s = .refused e := by
  simp only [runMicros, micro_refused h hacc hd4, andThen_refused]

/-- The latches and the label of a command do not change who else may move. -/
theorem quiet_latched (i : Instr) (p : Phase) (s : State) :
    quiet { latched i (logCmd i s) with upc := p } = quiet s := by
  cases i <;> rfl

/-- An admitted command of a quiet state runs micro-steps from its first label. -/
theorem exec_of_quiet {i : Instr} {p : Phase} {s : State} (hp : firstLabel i = some p) (ha : Admitted i s)
    (hq : quiet s = true) :
    ∃ n, exec i s = runMicros (n + 2) { latched i (logCmd i s) with upc := p } := by
  have hq' : quiet { latched i (logCmd i s) with upc := p } = true := (quiet_latched i p s).trans hq
  exact ⟨_, (exec_of_admitted hp ha).trans ((accept_of_quiet hq').trans (advance_of_quiet hq'))⟩

/-- Without the launch premises an admitted command whose first label makes an access is refused. -/
theorem exec_refused {i : Instr} {p : Phase} {s : State} {e : Refusal} (h : accessRefusal s = some e)
    (hp : firstLabel i = some p) (ha : Admitted i s) (hq : quiet s = true) (hacc : accessOf p ≠ [])
    (hd4 : p ≠ .d4) : exec i s = .refused e := by
  obtain ⟨n, hexec⟩ := exec_of_quiet hp ha hq
  have hlatched : accessRefusal { latched i (logCmd i s) with upc := p } = some e := by
    rw [← h]
    cases i <;> rfl
  exact hexec.trans (runMicros_refused hlatched hacc hd4)

/-- An admitted command that responds with its first micro-step answers what that does. -/
theorem exec_next_of_micro {i : Instr} {p : Phase} {s t : State} (hp : firstLabel i = some p) (ha : Admitted i s)
    (hq : quiet s = true) (hm : micro { latched i (logCmd i s) with upc := p } = .next t) (ht : t.upc = .idle) :
    exec i s = .next t := by
  obtain ⟨n, hexec⟩ := exec_of_quiet hp ha hq
  exact hexec.trans (runMicros_stop hm (.inl ht))

/-- DRIVE with bytes left passes D1 without an access and is refused at D2. -/
theorem exec_drive_refused {s : State} {e : Refusal} (h : accessRefusal s = some e) (ha : OperationAlive s)
    (hq : quiet s = true) (hcur : s.cur < s.len) (handle : Nat) : exec (.drive handle) s = .refused e := by
  obtain ⟨n, hexec⟩ := exec_of_quiet (i := .drive handle) rfl ha hq
  have hd1 : micro { latched (.drive handle) (logCmd (.drive handle) s) with upc := .d1 } =
      .next { latched (.drive handle) (logCmd (.drive handle) s) with upc := .d2 } :=
    microD1_next.mpr (.inr ⟨hcur, rfl⟩)
  rw [hexec, runMicros_go hd1 nofun nofun]
  exact runMicros_refused h nofun nofun

/-- Without the launch premises the labels of the entry that make an access are refused. -/
theorem entryMicro_refused {s : State} {e : Refusal} (h : accessRefusal s = some e)
    (hacc : entryAccessOf s.ipc ≠ []) : entryMicro s = .refused e := by
  cases hp : s.ipc <;> simp only [entryMicro, hp]
  case h2 => exact regRead_of_refusal h _ _
  case h4 => exact regWrite_of_refusal h _ _ _
  all_goals exact absurd (by rw [hp]; rfl) hacc

/-- Without the launch premises a run of the entry from H1 counts and is refused at H2. -/
theorem runEntry_refused {n : Nat} {s : State} {e : Refusal} (h : accessRefusal s = some e) (hipc : s.ipc = .h1) :
    runEntry (n + 2) s = .refused e := by
  have hcount : entryMicro s = .next { countIrq s with ipc := .h2 } := by simp only [entryMicro, hipc, entryH1]
  have hread : entryMicro { countIrq s with ipc := .h2 } = .refused e := entryMicro_refused h nofun
  simp only [runEntry, hcount, andThen_next, reduceCtorEq, if_false, hread, andThen_refused]

/-- Without the launch premises an admitted IRQ is refused. -/
theorem exec_irq_refused {s : State} {e : Refusal} (h : accessRefusal s = some e) (hlife : s.life = .ready)
    (hq : quiet s = true) : exec .irq s = .refused e := by
  obtain ⟨hsched, hbus, -⟩ := quiet_iff.mp hq
  have hquiet : entryQuiet (takeIrq .command (logCmd .irq s)) = true := entryQuiet_iff.mpr ⟨hsched, hbus⟩
  rw [execIrq_of_ready hlife, advanceEntry, if_pos hquiet]
  exact runEntry_refused h rfl

/-- Settles O46: every command that makes an access comes to it and is refused there; BEGIN and DROP make none. -/
theorem unlaunchableBaseRefusesEveryAccess : Obligations.UnlaunchableBaseRefusesEveryAccess := by
  intro s e hbase hq
  have hrefused := accessRefusal_of_unlaunchable hbase
  refine ⟨fun hd => ⟨?init, fun b => ?putc, ?getc, ?rxpend, ?ack, fun bytes => ?begin⟩,
    fun ha => ⟨fun handle hcur => exec_drive_refused hrefused ha hq hcur handle, ?drop⟩,
    fun hlife _ => exec_irq_refused hrefused hlife hq⟩
  case init | putc | getc | rxpend | ack => exact exec_refused hrefused rfl hd hq nofun nofun
  case begin => exact ⟨_, exec_next_of_micro rfl hd hq rfl rfl⟩
  case drop => exact ⟨_, exec_next_of_micro rfl ha hq rfl rfl⟩

end Sys2Proof.Machine
end

section
/-! Handles are opaque (R70, R116): two runs from states that differ in the handle latched go the same way. -/

namespace Sys2Proof.Machine

/-! ### Twins -/

/-- s with the handle k latched, and any cell, woken set and trace. -/
def withHandle (k : Nat) (wake : Option Nat) (woken : List Nat) (trace : List Event) (s : State) : State :=
  { s with scr := { s.scr with h := k }, wake := wake, woken := woken, trace := trace }

@[simp] theorem withHandle_upc (k : Nat) (wake : Option Nat) (woken : List Nat) (trace : List Event) (s : State) :
    (withHandle k wake woken trace s).upc = s.upc := rfl

@[simp] theorem withHandle_trace (k : Nat) (wake : Option Nat) (woken : List Nat) (trace : List Event) (s : State) :
    (withHandle k wake woken trace s).trace = trace := rfl

/-- The cell of s and a cell beside it: equal, or they hold the handle of s and k. -/
def CellsMatch (k : Nat) (s : State) (wake : Option Nat) : Prop :=
  wake = s.wake ∨ s.wake = some s.scr.h ∧ wake = some k

theorem CellsMatch.isSome_eq {k : Nat} {s : State} {wake : Option Nat} (h : CellsMatch k s wake) :
    wake.isSome = s.wake.isSome := by
  rcases h with rfl | ⟨hs, rfl⟩
  · rfl
  · rw [hs]; rfl

/-- With another handle latched a micro-step does the same: only DS looks at the handle, to register it. -/
theorem micro_withHandle {k : Nat} {s t : State} {wake : Option Nat} (woken : List Nat) (trace : List Event)
    (hcell : CellsMatch k s wake) (hm : micro s = .next t) :
    ∃ wake' trace', micro (withHandle k wake woken trace s) = .next (withHandle k wake' woken trace' t) ∧
      t.scr.h = s.scr.h ∧ CellsMatch k t wake' := by
  cases hp : s.upc <;> simp only [micro, withHandle_upc, hp] at hm ⊢
  case i1 | i2 | i3 | i4 | i5 | i6 | i7 =>
    obtain ⟨hl, rfl⟩ := microInit_next.mp hm
    exact ⟨_, _, microInit_next.mpr ⟨hl, rfl⟩, rfl, hcell⟩
  case p1 => obtain ⟨hl, rfl⟩ := microP1_next.mp hm; exact ⟨_, _, microP1_next.mpr ⟨hl, rfl⟩, rfl, hcell⟩
  case p2 => obtain ⟨hl, rfl⟩ := microP2_next.mp hm; exact ⟨_, _, microP2_next.mpr ⟨hl, rfl⟩, rfl, hcell⟩
  case g1 => obtain ⟨hl, rfl⟩ := microG1_next.mp hm; exact ⟨_, _, microG1_next.mpr ⟨hl, rfl⟩, rfl, hcell⟩
  case g2 => obtain ⟨hl, rfl⟩ := microG2_next.mp hm; exact ⟨_, _, microG2_next.mpr ⟨hl, rfl⟩, rfl, hcell⟩
  case q1 => obtain ⟨hl, rfl⟩ := microQ1_next.mp hm; exact ⟨_, _, microQ1_next.mpr ⟨hl, rfl⟩, rfl, hcell⟩
  case a1 => obtain ⟨hl, rfl⟩ := microA1_next.mp hm; exact ⟨_, _, microA1_next.mpr ⟨hl, rfl⟩, rfl, hcell⟩
  case d1 =>
    rcases microD1_next.mp hm with ⟨hdone, rfl⟩ | ⟨hleft, rfl⟩
    · exact ⟨_, _, microD1_next.mpr (.inl ⟨hdone, rfl⟩), rfl, hcell⟩
    · exact ⟨_, _, microD1_next.mpr (.inr ⟨hleft, rfl⟩), rfl, hcell⟩
  case d2 =>
    obtain ⟨hl, ⟨hfull, rfl⟩ | ⟨hfull, rfl⟩⟩ := microD2_next.mp hm
    · exact ⟨_, _, microD2_next.mpr ⟨hl, .inl ⟨hfull, rfl⟩⟩, rfl, hcell⟩
    · exact ⟨_, _, microD2_next.mpr ⟨hl, .inr ⟨hfull, rfl⟩⟩, rfl, hcell⟩
  case d3 => obtain ⟨hl, rfl⟩ := microD3_next.mp hm; exact ⟨_, _, microD3_next.mpr ⟨hl, rfl⟩, rfl, hcell⟩
  case d4 =>
    obtain ⟨hl, b, hb, rfl⟩ := microD4_next.mp hm
    exact ⟨_, _, microD4_next.mpr ⟨hl, b, hb, rfl⟩, rfl, hcell⟩
  case ds => cases hm; exact ⟨some k, _, rfl, rfl, .inr ⟨rfl, rfl⟩⟩
  case c3 => cases hm; exact ⟨none, _, rfl, rfl, .inl rfl⟩
  case x1 =>
    cases hm
    refine ⟨if Config.dropKeepsWake s.draws then wake else none, _, rfl, rfl, ?_⟩
    cases hkeep : Config.dropKeepsWake s.draws with
    | true => simpa [CellsMatch, hkeep] using hcell
    | false => exact .inl rfl
  case idle | c1 | c2 | i8 | b1 | d5 => cases hm; exact ⟨_, _, rfl, rfl, hcell⟩

/-- u is s with k latched in place of h: the cells match, the block's accesses are the same, and nothing else differs
but the woken sets and the commands' events. -/
def HandleTwins (h k : Nat) (s u : State) : Prop :=
  ∃ wake woken trace, u = withHandle k wake woken trace s ∧ s.scr.h = h ∧ CellsMatch k s wake ∧
    blockAccesses trace = blockAccesses s.trace

theorem HandleTwins.after_micro {h k : Nat} {s t u : State} (htwins : HandleTwins h k s u) (hm : micro s = .next t) :
    ∃ v, micro u = .next v ∧ HandleTwins h k t v := by
  obtain ⟨wake, woken, trace, rfl, hh, hcell, hacc⟩ := htwins
  obtain ⟨wake', trace', hv, hkeep, hcell'⟩ := micro_withHandle woken trace hcell hm
  refine ⟨_, hv, wake', woken, trace', rfl, hkeep.trans hh, hcell', ?_⟩
  have hvacc := (micro_accesses hv).1
  rw [withHandle_trace, withHandle_trace, withHandle_upc] at hvacc
  rw [hvacc, hacc, (micro_accesses hm).1]

theorem HandleTwins.upc_eq {h k : Nat} {s u : State} (htwins : HandleTwins h k s u) : u.upc = s.upc := by
  obtain ⟨_, _, _, rfl, -⟩ := htwins
  rfl

theorem HandleTwins.quiet_eq {h k : Nat} {s u : State} (htwins : HandleTwins h k s u) : quiet u = quiet s := by
  obtain ⟨_, _, _, rfl, -⟩ := htwins
  rfl

/-- Twins run alike. -/
theorem HandleTwins.after_runMicros {h k : Nat} {n : Nat} {s t u : State} (htwins : HandleTwins h k s u)
    (hm : runMicros n s = .next t) : ∃ v, runMicros n u = .next v ∧ HandleTwins h k t v := by
  induction n generalizing s u with
  | zero => cases hm; exact ⟨u, rfl, htwins⟩
  | succ n ih =>
    obtain ⟨s', hs', hm⟩ := andThen_eq_next hm
    obtain ⟨u', hu', htwins'⟩ := htwins.after_micro hs'
    simp only [runMicros, hu', andThen_next, htwins'.upc_eq, htwins.upc_eq]
    split at hm
    · rename_i hstop
      cases hm
      exact ⟨u', if_pos hstop, htwins'⟩
    · rename_i hgo
      rw [if_neg hgo]
      exact ih htwins' hm

/-- Twins advance alike. -/
theorem HandleTwins.after_advance {h k : Nat} {s t u : State} (htwins : HandleTwins h k s u)
    (hm : advance s = .next t) : ∃ v, advance u = .next v ∧ HandleTwins h k t v := by
  have hbudget : microBudget u = microBudget s := by obtain ⟨_, _, _, rfl, -⟩ := htwins; rfl
  unfold advance at hm ⊢
  rw [htwins.quiet_eq, hbudget]
  split at hm
  · rename_i hq
    rw [if_pos hq]
    exact htwins.after_runMicros hm
  · rename_i hq
    rw [if_neg hq]
    exact htwins.after_micro hm

/-- Twins are accepted alike. -/
theorem HandleTwins.after_accept {h k : Nat} {s t u : State} (htwins : HandleTwins h k s u)
    (hm : accept s = .next t) : ∃ v, accept u = .next v ∧ HandleTwins h k t v := by
  rcases accept_eq_next hm with ⟨hq, rfl⟩ | ⟨hq, hm⟩
  · exact ⟨u, accept_of_not_quiet (htwins.quiet_eq.trans hq), htwins⟩
  · rw [accept_of_quiet (htwins.quiet_eq.trans hq)]
    exact htwins.after_advance hm

/-- What an observer sees of twins (R116 of 30_encoding.md). -/
theorem HandleTwins.alike {h k : Nat} {t u : State} (htwins : HandleTwins h k t u) :
    u.rspOut = t.rspOut ∧ u.cur = t.cur ∧ u.opst = t.opst ∧ u.upc = t.upc ∧ u.uart = t.uart ∧
      blockAccesses u.trace = blockAccesses t.trace ∧ u.wake.isSome = t.wake.isSome := by
  obtain ⟨wake, woken, trace, rfl, -, hcell, hacc⟩ := htwins
  exact ⟨rfl, rfl, rfl, rfl, rfl, hacc, hcell.isSome_eq⟩

/-! ### The handle of a suspended DRIVE -/

/-- A DRIVE in progress, or one that has ended; where it suspended, the cell holds its handle (R187 of
41_async_write.md). -/
def DriveRegisters (s : State) : Prop :=
  labelOf (.drive 0) s.upc = true ∨ s.upc = .idle ∧ (s.opst = .suspended → s.wake = some s.scr.h)

theorem DriveRegisters.after_micro {s t : State} (hs : DriveRegisters s) (h : micro s = .next t) :
    DriveRegisters t := by
  rcases hs with hlabel | ⟨hidle, hcell⟩
  · cases hp : s.upc <;> simp only [micro, hp] at h hlabel
    case d1 =>
      rcases microD1_next.mp h with ⟨-, rfl⟩ | ⟨-, rfl⟩
      · exact .inr ⟨rfl, nofun⟩
      · exact .inl rfl
    case d2 => obtain ⟨-, ⟨-, rfl⟩ | ⟨-, rfl⟩⟩ := microD2_next.mp h <;> exact .inl rfl
    case ds => cases h; exact .inr ⟨rfl, fun _ => rfl⟩
    case d3 =>
      obtain ⟨-, rfl⟩ := microD3_next.mp h
      cases txBusy (answer s .fr) <;> exact .inl rfl
    case d4 => obtain ⟨-, b, -, rfl⟩ := microD4_next.mp h; exact .inl rfl
    case d5 => cases h; exact .inl rfl
    all_goals exact nomatch hlabel
  · simp only [micro, hidle, Host.Outcome.next.injEq] at h
    exact h ▸ .inr ⟨hidle, hcell⟩

/-- A DRIVE that has suspended in its step has registered the handle latched. -/
theorem wake_of_exec_drive {h : Nat} {s t : State} (ha : OperationAlive s) (hexec : exec (.drive h) s = .next t)
    (hop : t.opst = .suspended) (hupc : t.upc = .idle) : t.wake = some t.scr.h := by
  rw [exec_of_admitted (i := .drive h) rfl ha] at hexec
  have hend : DriveRegisters t := by
    refine accept_keeps DriveRegisters (fun _ _ hu => hu.after_micro) ?_ hexec
    exact .inl rfl
  rcases hend with hlabel | ⟨-, hcell⟩
  · rw [hupc] at hlabel
    exact nomatch hlabel
  · exact hcell hop

/-- Settles O38: states that differ in the handle are twins, and twins go alike. -/
theorem handlesAreOpaque : Obligations.HandlesAreOpaque := by
  intro h k s t
  refine ⟨fun ha _ hexec => ?drive, fun hh hadv => ?later⟩
  case drive =>
    have hpresented : HandleTwins h k { latched (.drive h) (logCmd (.drive h) s) with upc := .d1 }
        { latched (.drive k) (logCmd (.drive k) s) with upc := .d1 } :=
      ⟨_, _, _, rfl, rfl, .inl rfl, by simp [blockAccesses]⟩
    obtain ⟨u, hu, htwins⟩ := hpresented.after_accept ((exec_of_admitted (i := .drive h) rfl ha).symm.trans hexec)
    have hexec' : exec (.drive k) s = .next u := (exec_of_admitted (i := .drive k) rfl ha).trans hu
    obtain ⟨hrsp, hcur, hop, hupc, huart, hacc, hsome⟩ := htwins.alike
    refine ⟨u, hexec', hrsp, hcur, hop, hupc, huart, hacc, hsome, fun ⟨hsusp, hidle⟩ => ?_⟩
    have ht := wake_of_exec_drive ha hexec hsusp hidle
    have hu := wake_of_exec_drive ha hexec' (hop.trans hsusp) (hupc.trans hidle)
    obtain ⟨_, _, _, rfl, rfl, -⟩ := htwins
    exact ⟨ht, hu⟩
  case later =>
    have hpresented : HandleTwins h k s { s with scr := { s.scr with h := k } } :=
      ⟨s.wake, s.woken, s.trace, rfl, hh, .inl rfl, rfl⟩
    obtain ⟨u, hu, htwins⟩ := hpresented.after_advance hadv
    obtain ⟨hrsp, hcur, hop, hupc, huart, hacc, hsome⟩ := htwins.alike
    refine ⟨u, hu, hrsp, hcur, hop, hupc, huart, hacc, hsome, ?_⟩
    obtain ⟨_, _, _, rfl, rfl, hcell, -⟩ := htwins
    exact hcell

end Sys2Proof.Machine
end

section
/-! The command stream and the codes of instructions (R110 to R118, R122, R124, R129 of 30_encoding.md): the decoder by
opcode byte, decoding what was encoded, encoding what was decoded, and a byte string as its items and a tail. -/

namespace Sys2Proof

/-! ### Operands of whole bytes -/

/-- Bytes that fill a width are a number of that width. -/
theorem leNat_lt_width {w : Nat} {v : List Byte} (hw : w % 8 = 0) (hv : v.length = w / 8) : leNat v < 2 ^ w := by
  rw [← pow_bytes hw, ← hv]
  exact leNat_lt v

/-- The n bytes of the number that n bytes are. -/
theorem leBytes_leNat_of_length {n : Nat} {v : List Byte} (hv : v.length = n) : leBytes n (leNat v) = v := by
  rw [← hv]
  exact leBytes_leNat v

/-! ### The decoder by opcode byte -/

/-- What the decoder makes of an opcode byte and the bytes bs behind it: one form for each of the ten opcodes (R112),
and none for the other bytes (R122). -/
inductive DecodedAs (c : Config) (bs : List Byte) : Byte → Decoded → Prop
  | construct : DecodedAs c bs 0x00 (decodeNumber (c.aw / 8) bs .construct)
  | init : DecodedAs c bs 0x01 (.instr .init bs)
  | putc : DecodedAs c bs 0x02 (decodeByte bs)
  | getc : DecodedAs c bs 0x03 (.instr .getc bs)
  | rxpend : DecodedAs c bs 0x04 (.instr .rxpend bs)
  | ack : DecodedAs c bs 0x05 (.instr .ack bs)
  | irq : DecodedAs c bs 0x06 (.instr .irq bs)
  | beginWrite : DecodedAs c bs 0x07 (decodeBuffer (c.lenw / 8) bs)
  | drive : DecodedAs c bs 0x08 (decodeNumber (c.hw / 8) bs .drive)
  | drop : DecodedAs c bs 0x09 (.instr .drop bs)
  | illegal {op : Byte} (hop : 9 < op.toNat) : DecodedAs c bs op (.illegal op bs)

theorem decode_cons (c : Config) (op : Byte) (bs : List Byte) : DecodedAs c bs op (decode c (op :: bs)) := by
  have eq_of {k : Byte} (hk : op.toNat = k.toNat) : op = k := BitVec.eq_of_toNat_eq hk
  simp only [decode]
  split <;> rename_i hop
  case h_1 => exact eq_of (k := 0x00) hop ▸ .construct
  case h_2 => exact eq_of (k := 0x01) hop ▸ .init
  case h_3 => exact eq_of (k := 0x02) hop ▸ .putc
  case h_4 => exact eq_of (k := 0x03) hop ▸ .getc
  case h_5 => exact eq_of (k := 0x04) hop ▸ .rxpend
  case h_6 => exact eq_of (k := 0x05) hop ▸ .ack
  case h_7 => exact eq_of (k := 0x06) hop ▸ .irq
  case h_8 => exact eq_of (k := 0x07) hop ▸ .beginWrite
  case h_9 => exact eq_of (k := 0x08) hop ▸ .drive
  case h_10 => exact eq_of (k := 0x09) hop ▸ .drop
  case h_11 =>
    simp only [imp_false] at *
    exact .illegal (by omega)

theorem decodeNumber_ne_illegal {n : Nat} {bs rest : List Byte} {mk : Nat → Instr} {op : Byte} :
    decodeNumber n bs mk ≠ .illegal op rest := by
  unfold decodeNumber
  split <;> exact nofun

theorem decodeBuffer_ne_illegal {n : Nat} {bs rest : List Byte} {op : Byte} :
    decodeBuffer n bs ≠ .illegal op rest := by
  unfold decodeBuffer
  split
  · exact nofun
  · split <;> exact nofun

theorem decodeByte_ne_illegal {bs rest : List Byte} {op : Byte} : decodeByte bs ≠ .illegal op rest := by
  cases bs <;> exact nofun

/-- An opcode byte above 0x09 is illegal, and consumed alone (R122). -/
theorem decode_illegal (c : Config) {op : Byte} (hop : 9 < op.toNat) (rest : List Byte) :
    decode c (op :: rest) = .illegal op rest := by
  have hd := decode_cons c op rest
  generalize decode c (op :: rest) = d at hd
  cases hd with
  | illegal => rfl
  | _ => exact absurd hop (by decide)

/-- An illegal opcode byte the decoder finds is the stream's first byte. -/
theorem eq_cons_of_decode_illegal {c : Config} {bs rest : List Byte} {op : Byte}
    (h : decode c bs = .illegal op rest) : bs = op :: rest := by
  cases bs with
  | nil => cases h
  | cons b bs =>
    have hd := decode_cons c b bs
    generalize decode c (b :: bs) = d at hd h
    cases hd with
    | construct | drive => exact absurd h decodeNumber_ne_illegal
    | putc => exact absurd h decodeByte_ne_illegal
    | beginWrite => exact absurd h decodeBuffer_ne_illegal
    | init | getc | rxpend | ack | irq | drop => cases h
    | illegal => cases h; rfl

/-- Settles O1: each word by running the decoder. -/
theorem sampleWordsDecode : Obligations.SampleWordsDecode :=
  ⟨rfl, rfl, rfl, rfl, rfl, rfl, rfl, rfl, rfl, rfl⟩

/-! ### Decoding what was encoded -/

@[simp] theorem txnOf_off (r : Reg) (a : Access) : (txnOf r a).off = BitVec.ofNat 12 (regOffset r) := by cases a <;> rfl
@[simp] theorem txnOf_access (r : Reg) (a : Access) : (txnOf r a).access = a := by cases a <;> rfl

/-- The transaction of an access at a register is the register's row, a write of a read-only register apart. -/
theorem decodeTxn_txnOf {r : Reg} {a : Access} (ha : a = .read ∨ ¬ ReadOnly r) :
    decodeTxn (txnOf r a) = .ok (rowOf r a) := by
  have hw : (txnOf r a).write = true → ¬ ReadOnly r := by
    rcases ha with rfl | ha
    · exact nofun
    · exact fun _ => ha
  rw [decodeTxn_of_row (txnOf_off r a) hw, txnOf_access]

/-- Settles O2: operand by operand for the commands, the transaction of the row for the registers. -/
theorem decodeInvertsEncode : Obligations.DecodeInvertsEncode := by
  intro c hc i rest hi
  obtain ⟨⟨haw, -⟩, ⟨hhw, -⟩, ⟨hlenw, -⟩, -⟩ := hc
  cases i with
  | construct base =>
    exact decodeNumber_leBytes (by rw [pow_bytes haw]; exact of_decide_eq_true hi) rest .construct
  | drive h =>
    exact decodeNumber_leBytes (by rw [pow_bytes hhw]; exact of_decide_eq_true hi) rest .drive
  | beginWrite bytes =>
    exact decodeBuffer_leBytes bytes rest (by rw [pow_bytes hlenw]; exact of_decide_eq_true hi)
  | init | putc _ | getc | rxpend | ack | irq | drop => rfl
  | fr | ris | mis => exact decodeTxn_txnOf (.inl rfl)
  | dr a | ibrd a | fbrd a | lcrh a | cr a | ifls a | imsc a | icr a => exact decodeTxn_txnOf (.inr nofun)

/-! ### Encoding what was decoded -/

/-- A command the decoder finds is well-formed, and the bytes it consumed are the command's encoding. -/
theorem encode_of_decode {c : Config} (hc : c.Wf) {i : Instr} {bs rest : List Byte} (h : decode c bs = .instr i rest) :
    i.wf c = true ∧ ∃ bytes, encode c i = .command bytes ∧ bs = bytes ++ rest := by
  obtain ⟨⟨haw, -⟩, ⟨hhw, -⟩, ⟨hlenw, -⟩, -⟩ := hc
  cases bs with
  | nil => cases h
  | cons op bs =>
    have hd := decode_cons c op bs
    generalize decode c (op :: bs) = d at hd h
    cases hd with
    | construct =>
      obtain ⟨v, rfl, hv, rfl⟩ := decodeNumber_eq_instr h
      refine ⟨decide_eq_true (leNat_lt_width haw hv), _, rfl, ?_⟩
      rw [leBytes_leNat_of_length hv]; rfl
    | drive =>
      obtain ⟨v, rfl, hv, rfl⟩ := decodeNumber_eq_instr h
      refine ⟨decide_eq_true (leNat_lt_width hhw hv), _, rfl, ?_⟩
      rw [leBytes_leNat_of_length hv]; rfl
    | beginWrite =>
      obtain ⟨len, bytes, rfl, hlen, hbytes, rfl⟩ := decodeBuffer_eq_instr h
      refine ⟨decide_eq_true (hbytes ▸ leNat_lt_width hlenw hlen), _, rfl, ?_⟩
      rw [hbytes, leBytes_leNat_of_length hlen, List.cons_append, List.append_assoc]
      rfl
    | putc =>
      obtain ⟨b, rfl, rfl⟩ := decodeByte_eq_instr h
      exact ⟨rfl, _, rfl, rfl⟩
    | init | getc | rxpend | ack | irq | drop => cases h; exact ⟨rfl, _, rfl, rfl⟩
    | illegal => cases h

/-- Settles O3: the bytes consumed are the encoding, and the decoder of the command port gives commands only. -/
theorem decodedCommandIsItsEncoding : Obligations.DecodedCommandIsItsEncoding := by
  intro c hc i bs rest h
  obtain ⟨hwf, hbytes⟩ := encode_of_decode hc h
  exact ⟨hwf, Machine.decode_isCommand h, hbytes⟩

/-! ### Items and a tail -/

/-- A command's code holds its opcode byte at least. -/
theorem encode_command_length_pos {c : Config} {i : Instr} {bytes : List Byte} (h : encode c i = .command bytes) :
    0 < bytes.length := by
  cases i <;> cases h <;> exact Nat.succ_pos _

/-- With fuel for every byte, a byte string is the bytes of its items and a tail that is an incomplete command. -/
theorem decodeItems_eq {c : Config} (hc : c.Wf) {n : Nat} {bs : List Byte} (hn : bs.length ≤ n) :
    bs = (decodeItems c n bs).1.flatMap (Machine.itemBytes c) ++ (decodeItems c n bs).2 ∧
    decode c (decodeItems c n bs).2 = .incomplete := by
  induction n generalizing bs with
  | zero =>
    obtain rfl := List.eq_nil_of_length_eq_zero (Nat.le_zero.mp hn)
    exact ⟨rfl, rfl⟩
  | succ n ih =>
    simp only [decodeItems]
    split
    case h_1 hd => exact ⟨rfl, hd⟩
    case h_2 op rest hd =>
      obtain rfl := eq_cons_of_decode_illegal hd
      obtain ⟨hrest, htail⟩ := ih (Nat.le_of_succ_le_succ hn)
      exact ⟨congrArg (op :: ·) hrest, htail⟩
    case h_3 i rest hd =>
      obtain ⟨-, bytes, hcode, rfl⟩ := encode_of_decode hc hd
      have hpos := encode_command_length_pos hcode
      rw [List.length_append] at hn
      obtain ⟨hrest, htail⟩ := ih (bs := rest) (by omega)
      have hitem : Machine.itemBytes c (.command i) = bytes := by simp only [Machine.itemBytes, hcode]
      refine ⟨?_, htail⟩
      rw [List.flatMap_cons, hitem, List.append_assoc, ← hrest]

/-- Settles O4: the stream's length is fuel enough. -/
theorem streamIsItemsAndTail : Obligations.StreamIsItemsAndTail :=
  fun _ hc _ => decodeItems_eq hc (Nat.le_refl _)

end Sys2Proof
end

section
/-! Where the block's next instruction comes from (R81, R110, R122, R124): the bytes at the command port of an idle
block, and another master's transaction. -/

namespace Sys2Proof.Machine

/-- With nothing scheduled, or after a scheduled block move, the step is the block's own. -/
theorem step_eq_blockStep {s u : State}
    (h : s.sched = [] ∧ u = s ∨ ∃ moves, s.sched = .block :: moves ∧ u = { s with sched := moves }) :
    step s = blockStep u := by
  rcases h with ⟨hs, rfl⟩ | ⟨moves, hs, rfl⟩ <;> simp only [step, hs]

/-- Another master's transaction that decodes is executed first. -/
theorem blockStep_of_txn {s : State} {x : Txn} {i : Instr} (hx : s.bus = some x) (hi : decodeTxn x = .ok i) :
    blockStep s = exec i { s with bus := none } := by
  simp only [blockStep, hx, serveBus, hi]

/-- A block with nothing in progress and nothing waiting serves its command port. -/
theorem blockStep_of_between {s : State} (hs : Between s) (hbus : s.bus = none) (hirq : s.irqReq = 0) :
    blockStep s = serveCommand s := by
  obtain ⟨hupc, hipc⟩ := hs
  simp [blockStep, hbus, hipc, mayServeIrq, hirq, hupc]

/-- The command at the port of a block with nothing in progress and nothing waiting is executed, its bytes consumed. -/
theorem blockStep_of_command {s : State} {i : Instr} {rest : List Byte} (hs : Between s) (hbus : s.bus = none)
    (hirq : s.irqReq = 0) (hd : decode s.cfg s.cmdIn = .instr i rest) :
    blockStep s = exec i { s with cmdIn := rest } := by
  rw [blockStep_of_between hs hbus hirq]
  simp only [serveCommand, hd]

theorem serveCommand_of_illegal {s : State} {op : Byte} {rest : List Byte}
    (h : decode s.cfg s.cmdIn = .illegal op rest) :
    serveCommand s = .next (refuseOpcode op { s with cmdIn := rest }) := by
  simp only [serveCommand, h]

theorem serveCommand_of_incomplete {s : State} (h : decode s.cfg s.cmdIn = .incomplete) :
    serveCommand s = .next s := by
  simp only [serveCommand, h]

/-- A DRIVE short of its handle bytes is incomplete (R118 of 30_encoding.md). -/
theorem decode_drive_short {c : Config} {rest : List Byte} (h : rest.length < c.hw / 8) :
    decode c (0x08 :: rest) = .incomplete := by
  change decodeNumber (c.hw / 8) rest .drive = .incomplete
  simp only [decodeNumber, takeBytes_eq_none.mpr h]

/-- Settles O6: the block's own step, then what it serves. -/
theorem stepExecutesTheDecodedInstruction : Obligations.StepExecutesTheDecodedInstruction := by
  refine ⟨fun s i rest hs hbus hirq hd => ?command, fun s x i hx hi => ?transaction⟩
  case command =>
    exact ⟨fun hsched => (step_eq_blockStep (.inl ⟨hsched, rfl⟩)).trans (blockStep_of_command hs hbus hirq hd),
      fun moves hsched => (step_eq_blockStep (.inr ⟨moves, hsched, rfl⟩)).trans
        (blockStep_of_command (s := { s with sched := moves }) hs hbus hirq hd)⟩
  case transaction =>
    exact ⟨fun hsched => (step_eq_blockStep (.inl ⟨hsched, rfl⟩)).trans (blockStep_of_txn hx hi),
      fun moves hsched => (step_eq_blockStep (.inr ⟨moves, hsched, rfl⟩)).trans
        (blockStep_of_txn (s := { s with sched := moves }) hx hi)⟩

/-- Settles O7: the step serves the command port, whose bytes begin with an illegal opcode or are incomplete. -/
theorem illegalOpcodeIsRefusedAndIncompleteWaits : Obligations.IllegalOpcodeIsRefusedAndIncompleteWaits := by
  rintro s hs ⟨hsched, hbus, hirq⟩
  have hstep : step s = serveCommand s :=
    (step_eq_blockStep (.inl ⟨hsched, rfl⟩)).trans (blockStep_of_between hs hbus hirq)
  rw [hstep]
  refine ⟨fun op rest hin hop => ?illegal, serveCommand_of_incomplete, fun rest hin hshort => ?short⟩
  case illegal =>
    rw [serveCommand_of_illegal (hin ▸ decode_illegal s.cfg hop rest)]
    simp [refuseOpcode, refuse, placeResponse]
  case short => exact serveCommand_of_incomplete (hin ▸ decode_drive_short hshort)

end Sys2Proof.Machine
end

section
/-! The responses of each command (R119, R120 of 30_encoding.md): what each label answers, and that a command answers
once and then has no label left. -/

namespace Sys2Proof.Machine

/-! ### What each label answers -/

/-- The responses a foreground label can end its command with (R150 to R160 of 40_driver_ops.md, R181 to R190 of
41_async_write.md). -/
inductive AnswerOf : Phase → Response → Prop
  | c2 (code : Byte) : AnswerOf .c2 (.fatal code)
  | c3 : AnswerOf .c3 .ok
  | i8 : AnswerOf .i8 .ok
  | p2 : AnswerOf .p2 .ok
  | g2 (b : Byte) : AnswerOf .g2 (.byte b)
  | q1 (b : Bool) : AnswerOf .q1 (.bool b)
  | a1 : AnswerOf .a1 .ok
  | b1 : AnswerOf .b1 .ok
  | d1 (count : Nat) : AnswerOf .d1 (.complete count)
  | ds : AnswerOf .ds .suspended
  | x1 : AnswerOf .x1 .ok

/-- A foreground micro-step leaves the response port alone and the command in progress, or it ends the command with an
answer of its label. -/
theorem micro_answers {s t : State} (hs : s.upc ≠ .idle) (h : micro s = .next t) :
    t.rspOut = s.rspOut ∧ t.upc ≠ .idle ∨
    t.upc = .idle ∧ ∃ x, t.rspOut = s.rspOut ++ [x] ∧ AnswerOf s.upc x := by
  cases hp : s.upc <;> simp only [micro, hp] at h
  case idle => exact absurd hp hs
  case i1 | i2 | i3 | i4 | i5 | i6 | i7 => obtain ⟨-, rfl⟩ := microInit_next.mp h; exact .inl ⟨rfl, nofun⟩
  case p1 =>
    obtain ⟨-, rfl⟩ := microP1_next.mp h
    exact .inl ⟨rfl, by cases txBusy (answer s .fr) <;> exact nofun⟩
  case g1 =>
    obtain ⟨-, rfl⟩ := microG1_next.mp h
    exact .inl ⟨rfl, by cases rxEmpty (answer s .fr) <;> exact nofun⟩
  case d3 =>
    obtain ⟨-, rfl⟩ := microD3_next.mp h
    exact .inl ⟨rfl, by cases txBusy (answer s .fr) <;> exact nofun⟩
  case c1 => cases h; exact .inl ⟨rfl, by by_cases hb : s.scr.base = 0 <;> simp [hb]⟩
  case d2 => obtain ⟨-, ⟨-, rfl⟩ | ⟨-, rfl⟩⟩ := microD2_next.mp h <;> exact .inl ⟨rfl, nofun⟩
  case d4 => obtain ⟨-, b, -, rfl⟩ := microD4_next.mp h; exact .inl ⟨rfl, nofun⟩
  case d5 => cases h; exact .inl ⟨rfl, nofun⟩
  case d1 =>
    rcases microD1_next.mp h with ⟨-, rfl⟩ | ⟨-, rfl⟩
    · exact .inr ⟨rfl, _, rfl, by constructor⟩
    · exact .inl ⟨rfl, nofun⟩
  case p2 => obtain ⟨-, rfl⟩ := microP2_next.mp h; exact .inr ⟨rfl, _, rfl, by constructor⟩
  case g2 => obtain ⟨-, rfl⟩ := microG2_next.mp h; exact .inr ⟨rfl, _, rfl, by constructor⟩
  case q1 => obtain ⟨-, rfl⟩ := microQ1_next.mp h; exact .inr ⟨rfl, _, rfl, by constructor⟩
  case a1 => obtain ⟨-, rfl⟩ := microA1_next.mp h; exact .inr ⟨rfl, _, rfl, by constructor⟩
  case c2 | c3 | i8 | b1 | ds | x1 => cases h; exact .inr ⟨rfl, _, rfl, by constructor⟩

/-! ### The labels of a command -/

theorem labelOf_firstLabel {i : Instr} {p : Phase} (h : firstLabel i = some p) : labelOf i p = true := by
  cases i <;> cases h <;> rfl

theorem not_labelOf_idle (i : Instr) : labelOf i .idle = false := by cases i <;> rfl

/-- A label that a command's label leads to is the command's again. -/
theorem labelOf_nextLabels {i : Instr} {p : Phase} (hp : labelOf i p = true) :
    ∀ q ∈ nextLabels p, q ≠ .idle → labelOf i q = true := by
  cases i with
  | construct _ | init | putc _ | getc | drive _ =>
    simp only [labelOf, decide_eq_true_eq] at hp ⊢
    revert p
    decide
  | rxpend | ack | beginWrite _ | drop =>
    obtain rfl := of_decide_eq_true hp
    simp only [labelOf]
    decide
  | _ => exact nomatch hp

/-- Every answer of a command's label is a response R120 lists for the command. -/
theorem mayRespond_of_answerOf {i : Instr} {p : Phase} {x : Response} (hp : labelOf i p = true) (hx : AnswerOf p x) :
    mayRespond i x = true := by
  cases i with
  | construct _ | init | putc _ | getc | rxpend | ack | beginWrite _ | drive _ | drop =>
    cases hx <;> simp [labelOf] at hp <;> rfl
  | _ => exact nomatch hp

/-- Every command may be refused (R120, R232). -/
theorem mayRespond_refused {i : Instr} (h : isCommand i = true) (r : Reason) : mayRespond i (.refused r) = true := by
  cases i with
  | construct _ | init | putc _ | getc | rxpend | ack | irq | beginWrite _ | drive _ | drop => rfl
  | _ => cases h

/-! ### Each command answers once -/

/-- From s on the foreground command i is in progress and has not answered, or it has ended with one of its
responses. -/
def AnswersOnce (i : Instr) (s u : State) : Prop :=
  labelOf i u.upc = true ∧ u.rspOut = s.rspOut ∨
  u.upc = .idle ∧ ∃ x, u.rspOut = s.rspOut ++ [x] ∧ mayRespond i x = true

theorem AnswersOnce.after_micro {i : Instr} {s u v : State} (hu : AnswersOnce i s u) (h : micro u = .next v) :
    AnswersOnce i s v := by
  rcases hu with ⟨hlabel, hrsp⟩ | ⟨hidle, hx⟩
  · have hbusy : u.upc ≠ .idle := fun he => by simp [he, not_labelOf_idle] at hlabel
    rcases micro_answers hbusy h with ⟨hv, hgo⟩ | ⟨hend, x, hv, hx⟩
    · exact .inl ⟨labelOf_nextLabels hlabel _ (micro_accesses h).2 hgo, hv.trans hrsp⟩
    · exact .inr ⟨hend, x, hrsp ▸ hv, mayRespond_of_answerOf hlabel hx⟩
  · simp only [micro, hidle, Host.Outcome.next.injEq] at h
    exact h ▸ .inr ⟨hidle, hx⟩

theorem AnswersOnce.responses {i : Instr} {s t : State} (h : AnswersOnce i s t) :
    t.rspOut = s.rspOut ∨ ∃ x, t.rspOut = s.rspOut ++ [x] ∧ mayRespond i x = true :=
  h.imp And.right And.right

/-- From s on the entry of an IRQ command is in progress and has not answered, or it has ended with OK on the response
port (R215 of 42_interrupt_wake.md, R245 of 60_exceptions.md). -/
def EntryAnswersOnce (s u : State) : Prop :=
  u.irqPort = .command ∧ (u.ipc ≠ .idle ∧ u.rspOut = s.rspOut ∨ u.ipc = .idle ∧ u.rspOut = s.rspOut ++ [.ok])

theorem EntryAnswersOnce.after_entryMicro {s u v : State} (hu : EntryAnswersOnce s u) (h : entryMicro u = .next v) :
    EntryAnswersOnce s v := by
  obtain ⟨hport, hu⟩ := hu
  rcases hu with ⟨hbusy, hrsp⟩ | ⟨hidle, hrsp⟩
  · rcases entryMicro_eq_next h with ⟨hp, -⟩ | ⟨-, rfl⟩ | ⟨-, -, rfl⟩ | ⟨-, rfl⟩ | ⟨-, -, rfl⟩
    · exact absurd hp hbusy
    · exact ⟨hport, .inl ⟨nofun, hrsp⟩⟩
    · exact ⟨hport, .inl ⟨by cases wakeCondition u.cfg (answer u .mis) <;> exact nofun, hrsp⟩⟩
    · exact ⟨by simpa using hport, .inl ⟨nofun, by simpa using hrsp⟩⟩
    · exact ⟨by simpa using hport, .inr ⟨rfl, by simp [hport, hrsp]⟩⟩
  · simp only [entryMicro, hidle, Host.Outcome.next.injEq] at h
    exact h ▸ ⟨hport, .inr ⟨hidle, hrsp⟩⟩

@[simp] theorem latched_rspOut (i : Instr) (s : State) : (latched i s).rspOut = s.rspOut := by cases i <;> rfl

theorem isCommand_of_rowReg {i : Instr} {r : Reg} (h : rowReg i = some r) : isCommand i = false := by
  cases i with
  | construct _ | init | putc _ | getc | rxpend | ack | irq | beginWrite _ | drive _ | drop => cases h
  | _ => rfl

/-- An IRQ command is refused on the response port, or its entry answers once. -/
theorem startIrq_command_answers {s t : State} (h : startIrq .command s = .next t) :
    t.rspOut = s.rspOut ∨ ∃ x, t.rspOut = s.rspOut ++ [x] ∧ mayRespond .irq x = true := by
  rcases startIrq_eq_next h with ⟨r, -, rfl⟩ | ⟨-, h⟩
  · exact .inr ⟨.refused r, rfl, rfl⟩
  · have htaken : EntryAnswersOnce s (takeIrq .command (logCmd .irq s)) := ⟨rfl, .inl ⟨nofun, rfl⟩⟩
    obtain ⟨-, ⟨-, hrsp⟩ | ⟨-, hrsp⟩⟩ :=
      advanceEntry_keeps (EntryAnswersOnce s) (fun _ _ hu => hu.after_entryMicro) htaken h
    · exact .inl hrsp
    · exact .inr ⟨.ok, hrsp, rfl⟩

/-- Settles O49: a command presented is refused, or it answers once through its micro-steps, in this step or later. -/
theorem responsesEachCommandMayGive : Obligations.ResponsesEachCommandMayGive := by
  intro i s t hi hstep
  rcases hstep with hexec | ⟨hlabel, hadv⟩
  · rcases exec_eq_next hexec with ⟨r, a, hr, -⟩ | ⟨rfl, h⟩ | ⟨-, r, -, rfl⟩ | ⟨p, hp, -, h⟩
    · exact absurd (isCommand_of_rowReg hr) (by simp [hi])
    · exact startIrq_command_answers h
    · exact .inr ⟨.refused r, rfl, mayRespond_refused hi r⟩
    · have haccepted : AnswersOnce i s { latched i (logCmd i s) with upc := p } :=
        .inl ⟨labelOf_firstLabel hp, latched_rspOut i _⟩
      exact (accept_keeps (AnswersOnce i s) (fun _ _ hu => hu.after_micro) haccepted h).responses
  · exact (advance_keeps (AnswersOnce i s) (fun _ _ hu => hu.after_micro) (.inl ⟨hlabel, rfl⟩) hadv).responses

end Sys2Proof.Machine
end

section
/-! What the ports show (R41, R119, R126): the bytes of responses, a reader that takes them back one response at a time,
and the status port. -/

namespace Sys2Proof.Machine

/-- The reason a reason byte stands for (R232 of 60_exceptions.md); a byte that is none reads as the last. -/
def reasonOf (b : Byte) : Reason :=
  match b.toNat with
  | 1 => .badOpcode
  | 2 => .notConstructed
  | 3 => .alreadyConstructed
  | 4 => .opAlive
  | 5 => .noOp
  | _ => .halted

@[simp] theorem reasonOf_reasonCode (r : Reason) : reasonOf (reasonCode r) = r := by cases r <;> rfl

/-- The response at the head of a byte stream, and the bytes after it: the status byte alone gives the payload's
length (R119 of 30_encoding.md). -/
def readResponse (c : Config) : List Byte → Option (Response × List Byte)
  | [] => none
  | status :: bs =>
    match status.toNat, bs with
    | 0x00, rest => some (.ok, rest)
    | 0x01, b :: rest => some (.byte b, rest)
    | 0x02, b :: rest => some (.bool (b == 0x01), rest)
    | 0x03, rest => some (.suspended, rest)
    | 0x04, rest => (takeBytes (c.lenw / 8) rest).map fun p => (.complete (leNat p.1), p.2)
    | 0xFE, code :: rest => some (.fatal code, rest)
    | 0xFF, b :: rest => some (.refused (reasonOf b), rest)
    | _, _ => none

/-- The count of a COMPLETE fits the width of its payload (R119 of 30_encoding.md). -/
def CountFits (c : Config) (x : Response) : Prop := ∀ n, x = .complete n → n < 2 ^ c.lenw

/-- A response is read back from its bytes, whatever follows them. -/
theorem readResponse_responseBytes {c : Config} (hc : c.Wf) {x : Response} (hx : CountFits c x) (rest : List Byte) :
    readResponse c (responseBytes c x ++ rest) = some (x, rest) := by
  obtain ⟨-, -, ⟨hlenw, -⟩, -⟩ := hc
  cases x with
  | ok | byte b | suspended | fatal code => rfl
  | bool b => cases b <;> rfl
  | refused r => exact congrArg (fun q => some (Response.refused q, rest)) (reasonOf_reasonCode r)
  | complete n =>
    have hn : n < 256 ^ (c.lenw / 8) := by rw [pow_bytes hlenw]; exact hx n rfl
    simp [readResponse, responseBytes, takeBytes_append _ rest (leBytes_length (c.lenw / 8) n), leNat_leBytes hn]

/-- No response is without bytes. -/
theorem responseBytes_ne_nil (c : Config) (x : Response) : responseBytes c x ≠ [] := by
  cases x <;> exact List.cons_ne_nil _ _

/-- Responses whose counts fit are told by their byte stream. -/
theorem eq_of_flatMap_responseBytes {c : Config} (hc : c.Wf) {xs ys : List Response}
    (hxs : ∀ x ∈ xs, CountFits c x) (hys : ∀ y ∈ ys, CountFits c y)
    (h : xs.flatMap (responseBytes c) = ys.flatMap (responseBytes c)) : xs = ys := by
  induction xs generalizing ys with
  | nil =>
    cases ys with
    | nil => rfl
    | cons y ys => simp [List.flatMap_cons, responseBytes_ne_nil] at h
  | cons x xs ih =>
    cases ys with
    | nil => simp [List.flatMap_cons, responseBytes_ne_nil] at h
    | cons y ys =>
      obtain ⟨hx, hxs'⟩ := List.forall_mem_cons.mp hxs
      obtain ⟨hy, hys'⟩ := List.forall_mem_cons.mp hys
      have hread := congrArg (readResponse c) h
      rw [List.flatMap_cons, List.flatMap_cons, readResponse_responseBytes hc hx,
        readResponse_responseBytes hc hy] at hread
      obtain ⟨rfl, hrest⟩ := Prod.mk.inj (Option.some.inj hread)
      rw [ih hxs' hys' hrest]

/-- A number that fits w bits in w / 8 bytes, least significant first (R111 of 30_encoding.md). -/
theorem leBytes_shows {w n : Nat} (hw : w % 8 = 0) (hn : n < 2 ^ w) :
    (leBytes (w / 8) n).length = w / 8 ∧ leNat (leBytes (w / 8) n) = n :=
  ⟨leBytes_length _ _, leNat_leBytes (by rwa [pow_bytes hw])⟩

/-- A table that lists values with their codes gives each value its code. -/
theorem eq_of_mem_map_pair {α β : Type} {f : α → β} {as : List α} {a : α} {b : β}
    (h : (a, b) ∈ as.map fun x => (x, f x)) : f a = b := by
  obtain ⟨x, -, hx⟩ := List.mem_map.mp h
  cases hx
  rfl

/-- Settles O50: the bytes as the formats give them, the stream read back response by response, the status port field by
field. -/
theorem portsShowTheirBytes : Obligations.PortsShowTheirBytes := by
  refine ⟨fun c => ⟨rfl, fun _ => rfl, rfl, rfl, rfl, fun _ => rfl, ?reasons, ?count, ?wake⟩, ?stream, ?status⟩
  case reasons =>
    intro r b hb
    rw [← eq_of_mem_map_pair (f := reasonCode)
      (as := [.badOpcode, .notConstructed, .alreadyConstructed, .opAlive, .noOp, .halted]) hb]
    rfl
  case count =>
    rintro ⟨-, -, ⟨hlenw, -⟩, -⟩ n hn
    exact ⟨_, rfl, leBytes_shows hlenw hn⟩
  case wake =>
    rintro ⟨-, ⟨hhw, -⟩, -⟩ h hh
    exact ⟨_, rfl, leBytes_shows hhw hh⟩
  case stream =>
    intro s t hc hcfg hfits h
    simp only [responseStream, hcfg] at h
    refine eq_of_flatMap_responseBytes hc (fun x hx n hn => ?_) (fun x hx n hn => ?_) h
    · exact hfits n (List.mem_append_left _ (hn ▸ hx))
    · exact hfits n (List.mem_append_right _ (hn ▸ hx))
  case status =>
    intro s
    refine ⟨fun l b hb hl => ?_, fun o b hb ho => ?_, rfl, rfl, rfl, fun hw => ?_, fun h hw => ?_⟩
    · rw [← eq_of_mem_map_pair (f := lifeCode) (as := [.reset, .ready, .halted]) hb, ← hl]
      rfl
    · rw [← eq_of_mem_map_pair (f := opStateCode) (as := [.none, .active, .suspended, .complete]) hb, ← ho]
      rfl
    · simp only [statusPort, hw, Option.isSome_none]
    · simp only [statusPort, hw, Option.isSome_some, Option.getD_some, and_self]

end Sys2Proof.Machine
end

section
/-! The frame of INIT, PUTC, GETC, RXPEND, ACK and BEGIN (R153 to R161 of 40_driver_ops.md, R180 of 41_async_write.md):
what each of their labels leaves unchanged, and that a command goes through labels of its own only. -/

namespace Sys2Proof.Machine

/-- The commands that need the driver to itself (R233 of 60_exceptions.md). -/
abbrev DriverCommand (i : Instr) : Prop :=
  i = .init ∨ (∃ b, i = .putc b) ∨ i = .getc ∨ i = .rxpend ∨ i = .ack ∨ (∃ bytes, i = .beginWrite bytes)

/-! ### What each command leaves unchanged -/

/-- What no driver command changes: the lifecycle, the binding, the cell, the count and the interrupt side. -/
def unownedView (s : State) :=
  (s.life, s.base, s.wake, s.irqcnt, s.ipc, s.irqReq, s.irqDone, s.wakeOut, s.woken)

/-- What only the outside changes: the command port, the parameters, the other master, the schedule, the mode. -/
def outsideView (s : State) := (s.cmdIn, s.cfg, s.bus, s.sched, s.uart.mode)

/-- The registers of the write operation, which BEGIN sets (R180 of 41_async_write.md). -/
def operationView (s : State) := (s.opst, s.cur, s.len, s.buf)

/-- The configuration and the mask of the peripheral, which INIT sets (R153 of 40_driver_ops.md). -/
def configView (u : Uart) := (u.ibrd, u.fbrd, u.lcrh, u.cr, u.ifls, u.imsc)

/-- What ACK changes in the peripheral (R160 of 40_driver_ops.md, R87 of 20_memory.md). -/
def sourcesView (u : Uart) := (u.ris, u.icr)

/-- From s to t nothing has changed that the driver command i must leave alone. -/
structure DriverFrame (i : Instr) (s t : State) : Prop where
  unowned : unownedView t = unownedView s
  outside : outsideView t = outsideView s
  operation : (∀ bytes, i ≠ .beginWrite bytes) → operationView t = operationView s
  config : i ≠ .init → configView t.uart = configView s.uart
  txlog : (∀ b, i ≠ .putc b) → t.uart.txlog = s.uart.txlog
  rxq : i ≠ .getc → t.uart.rxq = s.uart.rxq
  sources : i ≠ .ack → sourcesView t.uart = sourcesView s.uart

/-- All of that together. -/
def frameView (s : State) :=
  (unownedView s, outsideView s, operationView s, configView s.uart, s.uart.txlog, s.uart.rxq, sourcesView s.uart)

/-- A change of other things only is in every command's frame. -/
theorem DriverFrame.of_eq {i : Instr} {s t : State} (h : frameView t = frameView s) : DriverFrame i s t := by
  simp only [frameView, Prod.mk.injEq] at h
  obtain ⟨hunowned, houtside, hop, hconfig, htxlog, hrxq, hsources⟩ := h
  exact ⟨hunowned, houtside, fun _ => hop, fun _ => hconfig, fun _ => htxlog, fun _ => hrxq, fun _ => hsources⟩

theorem DriverFrame.trans {i : Instr} {s u t : State} (h1 : DriverFrame i s u) (h2 : DriverFrame i u t) :
    DriverFrame i s t where
  unowned := h2.unowned.trans h1.unowned
  outside := h2.outside.trans h1.outside
  operation hi := (h2.operation hi).trans (h1.operation hi)
  config hi := (h2.config hi).trans (h1.config hi)
  txlog hi := (h2.txlog hi).trans (h1.txlog hi)
  rxq hi := (h2.rxq hi).trans (h1.rxq hi)
  sources hi := (h2.sources hi).trans (h1.sources hi)

/-- A label of a driver command changes only what the command may: the labels that poll, read MIS or end INIT nothing of
the frame, each other label the one thing of its command. -/
theorem DriverFrame.of_micro {i : Instr} {s t : State} (hi : DriverCommand i) (hlabel : labelOf i s.upc = true)
    (h : micro s = .next t) : DriverFrame i s t := by
  rcases hi with rfl | ⟨b, rfl⟩ | rfl | rfl | rfl | ⟨bytes, rfl⟩
  · cases hp : s.upc <;> simp only [micro, hp] at h hlabel
    case i1 | i2 | i3 | i4 | i5 | i6 | i7 =>
      obtain ⟨-, rfl⟩ := microInit_next.mp h
      exact ⟨rfl, rfl, fun _ => rfl, fun hne => absurd rfl hne, fun _ => rfl, fun _ => rfl, fun _ => rfl⟩
    case i8 => cases h; exact .of_eq rfl
    all_goals exact nomatch hlabel
  · cases hp : s.upc <;> simp only [micro, hp] at h hlabel
    case p1 => obtain ⟨-, rfl⟩ := microP1_next.mp h; exact .of_eq rfl
    case p2 =>
      obtain ⟨-, rfl⟩ := microP2_next.mp h
      exact ⟨rfl, rfl, fun _ => rfl, fun _ => rfl, fun hne => absurd rfl (hne b), fun _ => rfl, fun _ => rfl⟩
    all_goals exact nomatch hlabel
  · cases hp : s.upc <;> simp only [micro, hp] at h hlabel
    case g1 => obtain ⟨-, rfl⟩ := microG1_next.mp h; exact .of_eq rfl
    case g2 =>
      obtain ⟨-, rfl⟩ := microG2_next.mp h
      exact ⟨rfl, rfl, fun _ => rfl, fun _ => rfl, fun _ => rfl, fun hne => absurd rfl hne, fun _ => rfl⟩
    all_goals exact nomatch hlabel
  · simp only [micro, of_decide_eq_true hlabel] at h
    obtain ⟨-, rfl⟩ := microQ1_next.mp h
    exact .of_eq rfl
  · simp only [micro, of_decide_eq_true hlabel] at h
    obtain ⟨-, rfl⟩ := microA1_next.mp h
    exact ⟨rfl, rfl, fun _ => rfl, fun _ => rfl, fun _ => rfl, fun _ => rfl, fun hne => absurd rfl hne⟩
  · simp only [micro, of_decide_eq_true hlabel] at h
    cases h
    exact ⟨rfl, rfl, fun hne => absurd rfl (hne bytes), fun _ => rfl, fun _ => rfl, fun _ => rfl, fun _ => rfl⟩

theorem firstLabel_of_driverCommand {i : Instr} (hi : DriverCommand i) : ∃ p, firstLabel i = some p := by
  rcases hi with rfl | ⟨b, rfl⟩ | rfl | rfl | rfl | ⟨bytes, rfl⟩ <;> exact ⟨_, rfl⟩

/-! ### Every step of a command -/

/-- From s on the driver command i is in progress or has ended, its frame unchanged. -/
def DriverRun (i : Instr) (s u : State) : Prop :=
  DriverFrame i s u ∧ (labelOf i u.upc = true ∨ u.upc = .idle)

theorem DriverRun.after_micro {i : Instr} (hi : DriverCommand i) {s u v : State} (hu : DriverRun i s u)
    (h : micro u = .next v) : DriverRun i s v := by
  obtain ⟨hframe, hlabel | hidle⟩ := hu
  · refine ⟨hframe.trans (.of_micro hi hlabel h), ?_⟩
    by_cases hv : v.upc = .idle
    · exact .inr hv
    · exact .inl (labelOf_nextLabels hlabel _ (micro_accesses h).2 hv)
  · simp only [micro, hidle, Host.Outcome.next.injEq] at h
    exact h ▸ ⟨hframe, .inr hidle⟩

/-- Presenting a driver command, refused or accepted at its first label, touches nothing of its frame; nor do its later
steps. -/
theorem DriverFrame.of_stepOf {i : Instr} {s t : State} (hi : DriverCommand i) (h : StepOf i s t) :
    DriverFrame i s t := by
  rcases h with hexec | ⟨hlabel, hadv⟩
  · obtain ⟨p, hp⟩ := firstLabel_of_driverCommand hi
    obtain ⟨check, hcmd, -⟩ := exec_foreground hp s
    rcases startCommand_eq_next (hcmd.symm.trans hexec) with ⟨r, -, rfl⟩ | ⟨-, haccept⟩
    · exact .of_eq rfl
    · have haccepted : DriverRun i s { latched i (logCmd i s) with upc := p } := by
        refine ⟨?_, .inl (labelOf_firstLabel hp)⟩
        rcases hi with rfl | ⟨b, rfl⟩ | rfl | rfl | rfl | ⟨bytes, rfl⟩ <;> exact .of_eq rfl
      exact (accept_keeps (DriverRun i s) (fun _ _ hu => hu.after_micro hi) haccepted haccept).1
  · have hrun : DriverRun i s s := ⟨.of_eq rfl, .inl hlabel⟩
    exact (advance_keeps (DriverRun i s) (fun _ _ hu => hu.after_micro hi) hrun hadv).1

/-- Settles O47: every label of a command keeps the command's frame, and its steps go through its labels. -/
theorem frameOfTheDriverCommands : Obligations.FrameOfTheDriverCommands := by
  intro i s t hi h
  obtain ⟨hunowned, houtside, hop, hconfig, htxlog, hrxq, hsources⟩ := DriverFrame.of_stepOf hi h
  simp only [unownedView, outsideView, operationView, configView, sourcesView, Prod.mk.injEq]
    at hunowned houtside hop hconfig hsources
  obtain ⟨hlife, hbase, hwake, hcnt, hipc, hreq, hdone, hout, hwoken⟩ := hunowned
  obtain ⟨hcmd, hcfg, hbus, hsched, hmode⟩ := houtside
  exact ⟨hlife, hbase, hwake, hcnt, hipc, hreq, hdone, hout, hwoken, hcmd, hcfg, hbus, hsched, hop, hconfig, htxlog,
    hrxq, hsources, hmode⟩

end Sys2Proof.Machine
end

section
/-! The driver operations (40_driver_ops.md): the labels of CONSTRUCT, INIT, PUTC, GETC, RXPEND and ACK one by one, and
the commands that run alone through them. -/

namespace Sys2Proof.Machine

/-! ### An access and the response -/

theorem respond_afterWrite (s : State) (r : Reg) (v : Word) (x : Response) :
    respond x (afterWrite s r v) = { s with
      upc := .idle
      uart := uartAfterWrite s.uart v r
      rspOut := s.rspOut ++ [x]
      trace := s.trace ++ [.write r (regAddr s r) v, .rsp .command x] } := by
  rw [List.append_cons s.trace]
  rfl

theorem respond_afterRead (s : State) (r : Reg) (scr : Scratch) (x : Response) :
    respond x { afterRead s r with scr := scr } = { s with
      upc := .idle
      scr := scr
      uart := uartAfterRead s.uart r
      draws := s.draws + 1
      rspOut := s.rspOut ++ [x]
      trace := s.trace ++ [.read r (regAddr s r) (answer s r), .rsp .command x] } := by
  rw [List.append_cons s.trace]
  rfl

/-! ### The labels -/

/-- P2 writes the zero-extended byte to DR and ends PUTC (R155, R121). -/
theorem microP2_of_launch {s : State} (hl : Launch s) :
    microP2 s = .next { s with
      upc := .idle
      uart := { s.uart with txlog := s.uart.txlog ++ [s.scr.b.setWidth 32] }
      rspOut := s.rspOut ++ [.ok]
      trace := s.trace ++ [.write .dr (s.base + 0x00) (s.scr.b.setWidth 32), .rsp .command .ok] } :=
  microP2_next.mpr ⟨hl, (respond_afterWrite s .dr _ .ok).symm⟩

/-- G2 reads DR and ends GETC with the low byte of the word (R157, R121). -/
theorem microG2_of_launch {s : State} (hl : Launch s) :
    microG2 s = .next { s with
      upc := .idle
      scr := { s.scr with d := answer s .dr }
      uart := { s.uart with rxq := s.uart.rxq.tail }
      draws := s.draws + 1
      rspOut := s.rspOut ++ [.byte ((answer s .dr).setWidth 8)]
      trace := s.trace ++
        [.read .dr (s.base + 0x00) (answer s .dr), .rsp .command (.byte ((answer s .dr).setWidth 8))] } :=
  microG2_next.mpr ⟨hl, (respond_afterRead s .dr _ _).symm⟩

/-- Q1 reads MIS and ends RXPEND with its receive bit (R159). -/
theorem microQ1_of_launch {s : State} (hl : Launch s) :
    microQ1 s = .next { s with
      upc := .idle
      scr := { s.scr with m := answer s .mis }
      draws := s.draws + 1
      rspOut := s.rspOut ++ [.bool ((answer s .mis).getLsbD s.cfg.rxBit)]
      trace := s.trace ++
        [.read .mis (s.base + 0x40) (answer s .mis),
         .rsp .command (.bool ((answer s .mis).getLsbD s.cfg.rxBit))] } :=
  microQ1_next.mpr ⟨hl, (respond_afterRead s .mis _ _).symm⟩

/-- A1 writes CLEAR_ALL to ICR and ends ACK (R160, R87). -/
theorem microA1_of_launch {s : State} (hl : Launch s) :
    microA1 s = .next { s with
      upc := .idle
      uart := { s.uart with ris := s.uart.ris &&& ~~~ s.cfg.clearAll, icr := s.cfg.clearAll }
      rspOut := s.rspOut ++ [.ok]
      trace := s.trace ++ [.write .icr (s.base + 0x44) s.cfg.clearAll, .rsp .command .ok] } :=
  microA1_next.mpr ⟨hl, (respond_afterWrite s .icr _ .ok).symm⟩

/-- Settles O22: each label is one equation of its micro-step, an access followed by the response where it ends. -/
theorem driverMicroSteps : Obligations.DriverMicroSteps := by
  refine ⟨fun s => ⟨fun hp => ?c1, fun hp => ?c2, fun hp => ?c3⟩,
    fun s hl => ⟨fun p q r v h hp => ?init, fun p q n h hp => ?spin, fun hp => ?p2, fun hp => ?g2, fun hp => ?i8,
      fun hp => ?q1, fun hp => ?a1⟩⟩
  case c1 | c2 | c3 | i8 => simp only [micro, hp]; rfl
  case init =>
    simp only [List.mem_cons, Prod.mk.injEq, List.not_mem_nil, or_false] at h
    rcases h with h | h | h | h | h | h | h <;> obtain ⟨rfl, rfl, rfl, rfl⟩ := h <;> simp only [micro, hp]
    all_goals exact microInit_next.mpr ⟨hl, rfl⟩
  case spin =>
    simp only [List.mem_cons, Prod.mk.injEq, List.not_mem_nil, or_false] at h
    rcases h with ⟨rfl, rfl, rfl⟩ | ⟨rfl, rfl, rfl⟩ <;> simp only [micro, hp]
    · exact microP1_next.mpr ⟨hl, rfl⟩
    · exact microG1_next.mpr ⟨hl, rfl⟩
  case p2 => simp only [micro, hp]; exact microP2_of_launch hl
  case g2 => simp only [micro, hp]; exact microG2_of_launch hl
  case q1 => simp only [micro, hp]; exact microQ1_of_launch hl
  case a1 => simp only [micro, hp]; exact microA1_of_launch hl

/-! ### Commands of one label -/

/-- Settles O20: the answer of Q1. -/
theorem rxpendAnswersTheReceiveBit : Obligations.RxpendAnswersTheReceiveBit := by
  intro s hd hq hl
  rw [List.append_cons s.trace]
  exact exec_next_of_micro (i := .rxpend) rfl hd hq (microQ1_of_launch hl) rfl

/-- Settles O21: the write of A1. -/
theorem ackClearsThePendingSources : Obligations.AckClearsThePendingSources := by
  intro s hd hq hl
  rw [List.append_cons s.trace]
  exact exec_next_of_micro (i := .ack) rfl hd hq (microA1_of_launch hl) rfl

/-! ### Commands of two labels -/

/-- An admitted command that goes on to a second label and responds there answers what both micro-steps do. -/
theorem exec_next_of_two_micros {i : Instr} {p : Phase} {s u t : State} (hp : firstLabel i = some p)
    (ha : Admitted i s) (hq : quiet s = true) (hfirst : micro { latched i (logCmd i s) with upc := p } = .next u)
    (hgo : u.upc ≠ .idle) (hnew : u.upc ≠ p) (hsecond : micro u = .next t) (ht : t.upc = .idle) :
    exec i s = .next t := by
  obtain ⟨n, hexec⟩ := exec_of_quiet hp ha hq
  rw [hexec, runMicros_go hfirst hgo hnew, runMicros_stop hsecond (.inl ht)]

/-- With a base that is not null C1 goes on to C3 (R150). -/
theorem microC1_of_ne_zero {s : State} (h : s.scr.base ≠ 0) : microC1 s = .next { s with upc := .c3 } := by
  simp only [microC1, if_neg h]

/-- Where the busy flag reads clear P1 goes on to P2 (R155). -/
theorem microP1_of_clear {s : State} (hl : Launch s) (hf : txBusy (answer s .fr) = false) :
    microP1 s = .next { afterRead s .fr with scr := { s.scr with f := answer s .fr }, upc := .p2 } :=
  microP1_next.mpr ⟨hl, by simp only [hf, Bool.false_eq_true, if_false]⟩

/-- Where the receive-empty flag reads clear G1 goes on to G2 (R157). -/
theorem microG1_of_clear {s : State} (hl : Launch s) (hf : rxEmpty (answer s .fr) = false) :
    microG1 s = .next { afterRead s .fr with scr := { s.scr with f := answer s .fr }, upc := .g2 } :=
  microG1_next.mpr ⟨hl, by simp only [hf, Bool.false_eq_true, if_false]⟩

/-- Settles O15: C1 goes on to C3, which binds. -/
theorem constructBindsTheDriver : Obligations.ConstructBindsTheDriver := by
  intro base s hlife hq hbase
  rw [List.append_cons s.trace]
  exact exec_next_of_two_micros (i := .construct base) rfl hlife hq (microC1_of_ne_zero hbase) nofun nofun rfl rfl

/-- Settles O18: P1 reads FR and goes on to P2, which writes the byte. -/
theorem putcWritesTheByte : Obligations.PutcWritesTheByte := by
  intro b s hd hq hl hf
  rw [List.append_cons s.trace, List.append_cons (_ ++ _)]
  exact exec_next_of_two_micros (i := .putc b) rfl hd hq (microP1_of_clear hl hf) nofun nofun
    (microP2_of_launch hl) rfl

/-- Settles O19: G1 reads FR and goes on to G2, which reads DR. -/
theorem getcReturnsTheLowByte : Obligations.GetcReturnsTheLowByte := by
  rintro s d hd hq hl hf rfl
  rw [List.append_cons s.trace, List.append_cons (_ ++ _)]
  exact exec_next_of_two_micros (i := .getc) rfl hd hq (microG1_of_clear hl hf) nofun nofun
    (microG2_of_launch hl) rfl

/-! ### INIT -/

/-- Settles O16: the seven writes of its run, and the response. -/
theorem initMakesItsSevenWrites : Obligations.InitMakesItsSevenWrites := by
  intro s hd hq hl
  rw [exec_init hd hq hl]
  simp only [respond, placeResponse, written, initWrites, logCmd, regAddr, regOffset, uartAfterWrite, List.foldl_cons,
    List.foldl_nil, List.map_cons, List.map_nil, List.append_assoc, List.cons_append, List.nil_append]

end Sys2Proof.Machine
end

section
/-! Completion (R42, R194): when COMPLETE is placed the operation has written its whole buffer; and D4 always finds its
byte (R188, R234). -/

namespace Sys2Proof.Machine

/-! ### The responses of a step -/

/-- Between commands a complete operation has written its whole buffer (R42 d, e). -/
theorem BlockInv.whole_of_complete {s : State} (hs : BlockInv s) (hop : s.opst = .complete) (hupc : s.upc = .idle) :
    s.cur = s.buf.length ∧ s.ghost.opWrites = s.buf.map zext32 := by
  have hcur : s.cur = s.buf.length := (hs.finished hop).trans hs.lenIsLength
  have hsent : bytesSent s = s.buf.length := (if_neg (by simp [hupc])).trans hcur
  refine ⟨hcur, ?_⟩
  rw [hs.dataWrites (by simp [hop]), hsent, List.take_length]

/-- A label that answers COMPLETE is D1 with the cursor at the length, and it leaves the operation COMPLETE (R183). -/
theorem complete_of_micro {s t : State} {n : Nat} (h : micro s = .next t) (hx : AnswerOf s.upc (.complete n))
    (hrsp : t.rspOut = s.rspOut ++ [.complete n]) : n = t.cur ∧ t.opst = .complete ∧ t.upc = .idle := by
  generalize hp : s.upc = p at hx
  cases hx
  simp only [micro, hp] at h
  rcases microD1_next.mp h with ⟨-, rfl⟩ | ⟨-, rfl⟩
  · simpa [eq_comm] using hrsp
  · simp at hrsp

/-- The entry leaves the foreground's phase, the buffer and the record alone, and answers OK or nothing on the response
port. -/
theorem entryMicro_answers {s t : State} (h : entryMicro s = .next t) :
    t.upc = s.upc ∧ t.buf = s.buf ∧ t.ghost.opWrites = s.ghost.opWrites ∧
      (t.rspOut = s.rspOut ∨ t.rspOut = s.rspOut ++ [.ok]) := by
  rcases entryMicro_eq_next h with ⟨-, rfl⟩ | ⟨-, rfl⟩ | ⟨-, -, rfl⟩ | ⟨-, rfl⟩ | ⟨-, -, rfl⟩
  case inr.inr.inr.inr => cases hp : s.irqPort <;> simp [hp]
  all_goals simp

/-- An opening of a step answers nothing, or REFUSED. -/
theorem Opening.answers {u v : State} (h : Opening u v) :
    v.rspOut = u.rspOut ∨ ∃ r, v.rspOut = u.rspOut ++ [.refused r] := by
  cases h with
  | proceed | interrupt => exact .inl rfl
  | other r a => exact .inl (otherAccess_rspOut u r a)
  | badOpcode op => exact .inr ⟨.badOpcode, rfl⟩
  | refused p r i =>
    cases p with
    | command => exact .inr ⟨r, rfl⟩
    | request => exact .inl rfl
  | @accepted i => exact .inl (latched_rspOut i _)

theorem applyMove_rspOut (m : Move) (s : State) : (applyMove m s).rspOut = s.rspOut := by cases m <;> rfl

/-! ### COMPLETE -/

/-- During a step from s: the invariant, and where the one response so far is COMPLETE, the command has ended with the
whole buffer written. -/
structure CompletesWhole (s u : State) : Prop where
  inv : BlockInv u
  whole : ∀ n, u.rspOut = s.rspOut ++ [.complete n] →
    u.upc = .idle ∧ n = u.buf.length ∧ u.ghost.opWrites = u.buf.map zext32

/-- Only D1 answers COMPLETE, and it ends the command. -/
theorem CompletesWhole.after_micro {s u v : State} (hu : CompletesWhole s u) (h : micro u = .next v) :
    CompletesWhole s v := by
  have hinv := hu.inv.after_micro h
  by_cases hidle : u.upc = .idle
  · simp only [micro, hidle, Host.Outcome.next.injEq] at h
    exact h ▸ hu
  refine ⟨hinv, fun n hn => ?_⟩
  rcases micro_answers hidle h with ⟨hsame, -⟩ | ⟨-, x, hx, hanswer⟩
  · exact absurd (hu.whole n (hsame.symm.trans hn)).1 hidle
  · obtain ⟨hrsp, hlast⟩ := List.append_inj' (hx.symm.trans hn) rfl
    obtain rfl := List.singleton_inj.mp hlast
    obtain ⟨hcount, hop, hend⟩ := complete_of_micro h hanswer hx
    obtain ⟨hcur, hrecord⟩ := hinv.whole_of_complete hop hend
    exact ⟨hend, hcount.trans hcur, hrecord⟩

theorem CompletesWhole.after_entryMicro {s u v : State} (hu : CompletesWhole s u) (h : entryMicro u = .next v) :
    CompletesWhole s v := by
  refine ⟨hu.inv.after_entryMicro h, fun n hn => ?_⟩
  obtain ⟨hupc, hbuf, hrecord, hrsp | hrsp⟩ := entryMicro_answers h
  · rw [hupc, hbuf, hrecord]
    exact hu.whole n (hrsp.symm.trans hn)
  · have hlast := (List.append_inj' (hrsp.symm.trans hn) rfl).2
    simp at hlast

/-- Settles O59: no outside move and no opening answers COMPLETE, and the micro-steps answer it with the whole buffer
written. -/
theorem completionProperty : Obligations.CompletionProperty := by
  intro s t n hs h hn
  rcases step_opens h with ⟨m, rest, -, -, rfl⟩ | ⟨u, v, hu, hv, hrun⟩
  · rw [applyMove_rspOut] at hn
    simp at hn
  · have hinv := (hs.of_sameButInputs hu).after_opening hv
    obtain ⟨_, _, _, _, rfl⟩ := hu
    have hopened : CompletesWhole s v := by
      refine ⟨hinv, fun n hn => ?_⟩
      rcases hv.answers with hsame | ⟨r, hrefused⟩
      · simp [hsame] at hn
      · simp [hrefused] at hn
    exact ((hrun.keeps hopened (fun _ _ hw => hw.after_micro) (fun _ _ hw => hw.after_entryMicro)).whole n hn).2

/-! ### No fault -/

/-- The outcome is no fault. -/
def NoFault (o : Out) : Prop := ∀ r, o ≠ .fault r

theorem NoFault.next (s : State) : NoFault (.next s) := nofun

theorem NoFault.andThen {o : Out} {k : State → Out} (ho : NoFault o) (hk : ∀ u, o = .next u → NoFault (k u)) :
    NoFault (andThen o k) := by
  cases o with
  | next u => exact hk u rfl
  | fault r => exact absurd rfl (ho r)
  | refused r => exact nofun

theorem NoFault.regRead {r : Reg} {s : State} {k : Word → State → Out} (hk : ∀ w u, NoFault (k w u)) :
    NoFault (regRead r s k) := by
  unfold Machine.regRead
  split
  · exact nofun
  · exact hk _ _

theorem NoFault.regWrite {r : Reg} {v : Word} {s : State} {k : State → Out} (hk : ∀ u, NoFault (k u)) :
    NoFault (regWrite r v s k) := by
  unfold Machine.regWrite
  split
  · exact nofun
  · exact hk _

/-- D4 finds a byte at the cursor, which is below the length (R188). -/
theorem BlockInv.noFault_of_microD4 {s : State} (hs : BlockInv s) (hp : s.upc = .d4) : NoFault (microD4 s) := by
  have hcur : s.cur < s.buf.length := hs.lenIsLength ▸ hs.pastCheckPhase (by rw [hp]; rfl)
  have hbyte : bufByte s s.cur = some s.buf[s.cur] := List.getElem?_eq_getElem hcur
  simp only [microD4, hbyte]
  exact .regWrite fun _ => .next _

/-- No micro-step of the foreground faults: D4 alone could. -/
theorem BlockInv.noFault_of_micro {s : State} (hs : BlockInv s) : NoFault (micro s) := by
  cases hp : s.upc <;> simp only [micro, hp]
  case d4 => exact hs.noFault_of_microD4 hp
  case i1 | i2 | i3 | i4 | i5 | i6 | i7 | p2 | a1 => exact .regWrite fun _ => .next _
  case p1 | g1 | g2 | q1 | d3 => exact .regRead fun _ _ => .next _
  case d2 => exact .regRead fun f _ => by cases hf : txFull f <;> exact .next _
  case d1 => unfold microD1; split <;> exact .next _
  case idle | c1 | c2 | c3 | i8 | b1 | ds | d5 | x1 => exact .next _

theorem BlockInv.noFault_of_runMicros {n : Nat} {s : State} (hs : BlockInv s) : NoFault (runMicros n s) := by
  induction n generalizing s with
  | zero => exact .next s
  | succ n ih =>
    refine .andThen hs.noFault_of_micro fun u hu => ?_
    split
    · exact .next u
    · exact ih (hs.after_micro hu)

theorem BlockInv.noFault_of_advance {s : State} (hs : BlockInv s) : NoFault (advance s) := by
  unfold advance
  split
  · exact hs.noFault_of_runMicros
  · exact hs.noFault_of_micro

theorem BlockInv.noFault_of_accept {s : State} (hs : BlockInv s) : NoFault (accept s) := by
  unfold accept
  split
  · exact hs.noFault_of_runMicros
  · exact .next s

/-- No micro-step of the entry faults. -/
theorem noFault_of_entryMicro (s : State) : NoFault (entryMicro s) := by
  cases hp : s.ipc <;> simp only [entryMicro, hp]
  case h2 => exact .regRead fun _ _ => .next _
  case h4 => exact .regWrite fun _ => .next _
  case idle | h1 | h3 => exact .next _

theorem noFault_of_runEntry (n : Nat) (s : State) : NoFault (runEntry n s) := by
  induction n generalizing s with
  | zero => exact .next s
  | succ n ih =>
    refine .andThen (noFault_of_entryMicro s) fun u _ => ?_
    split
    · exact .next u
    · exact ih u

theorem noFault_of_advanceEntry (s : State) : NoFault (advanceEntry s) := by
  unfold advanceEntry
  split
  · exact noFault_of_runEntry 4 s
  · exact noFault_of_entryMicro s

theorem noFault_of_startIrq (p : IrqPort) (s : State) : NoFault (startIrq p s) := by
  unfold startIrq
  split
  · exact .next _
  · exact noFault_of_advanceEntry _

/-- Every instruction is a register row, IRQ, or a foreground command. -/
theorem instr_kind (i : Instr) : (∃ r, rowReg i = some r) ∨ i = .irq ∨ ∃ p, firstLabel i = some p := by
  cases i with
  | irq => exact .inr (.inl rfl)
  | construct _ | init | putc _ | getc | rxpend | ack | beginWrite _ | drive _ | drop => exact .inr (.inr ⟨_, rfl⟩)
  | _ => exact .inl ⟨_, rfl⟩

/-- No instruction faults between commands. -/
theorem BlockInv.noFault_of_exec {s : State} (hs : BlockInv s) (hupc : s.upc = .idle) (i : Instr) :
    NoFault (exec i s) := by
  rcases instr_kind i with ⟨r, hr⟩ | rfl | ⟨p, hp⟩
  · obtain ⟨a, ha⟩ := exec_row hr s
    exact ha ▸ .next _
  · exact noFault_of_startIrq .command s
  · obtain ⟨check, hexec, hcheck⟩ := exec_foreground hp s
    rw [hexec]
    cases check with
    | some r => exact .next _
    | none => exact (hs.after_acceptance hp (hcheck.mp rfl) hupc).noFault_of_accept

theorem noFault_of_serveBus (x : Txn) (s : State) : NoFault (serveBus x s) := by
  unfold serveBus
  split
  · rename_i i hi
    obtain ⟨r, hr⟩ := decodeTxn_rowReg hi
    obtain ⟨a, ha⟩ := exec_row hr { s with bus := none }
    exact ha ▸ .next _
  · exact nofun
  · exact nofun

theorem BlockInv.noFault_of_serveCommand {s : State} (hs : BlockInv s) (hupc : s.upc = .idle) :
    NoFault (serveCommand s) := by
  unfold serveCommand
  split
  · rename_i i rest _
    exact (hs.congr rfl : BlockInv { s with cmdIn := rest }).noFault_of_exec hupc i
  · exact .next _
  · exact .next _

theorem BlockInv.noFault_of_blockStep {s : State} (hs : BlockInv s) : NoFault (blockStep s) := by
  unfold blockStep
  split
  · exact noFault_of_serveBus _ s
  · split_ifs with _ _ hupc
    · exact noFault_of_advanceEntry s
    · exact noFault_of_startIrq _ _
    · exact hs.noFault_of_advance
    · exact hs.noFault_of_serveCommand (not_not.mp hupc)

/-- Settles O53: an outside move has a next state, and no part of the block's own step faults. -/
theorem noStepFaults : Obligations.NoStepFaults := by
  intro s r hs
  revert r
  change NoFault (step s)
  unfold step
  split
  · exact hs.noFault_of_blockStep
  · rename_i rest _
    exact (hs.congr rfl : BlockInv { s with sched := rest }).noFault_of_blockStep
  · exact .next _

end Sys2Proof.Machine
end

section
/-! The frame of DRIVE and DROP (R182 to R190 of 41_async_write.md, R222 of 42_interrupt_wake.md) and how a DRIVE can
end: what each of their labels leaves unchanged, and what a DRIVE has done after each of its labels. -/

namespace Sys2Proof.Machine

/-! ### Every step of a command -/

/-- What the presentation of a foreground command makes hold, refused or accepted, and its own labels keep, holds after
every step of it. -/
theorem StepOf.keeps {P : State → Prop} {i : Instr} {p : Phase} {s t : State} (h : StepOf i s t)
    (hp : firstLabel i = some p) (hs : P s) (hrefused : ∀ r, P (refuse .command r (logCmd i s)))
    (haccepted : P { latched i (logCmd i s) with upc := p })
    (hmicro : ∀ u v, labelOf i u.upc = true → P u → micro u = .next v → P v) : P t := by
  have hrun : ∀ u v, P u ∧ (labelOf i u.upc = true ∨ u.upc = .idle) → micro u = .next v →
      P v ∧ (labelOf i v.upc = true ∨ v.upc = .idle) := by
    rintro u v ⟨hu, hlabel | hidle⟩ hm
    · refine ⟨hmicro u v hlabel hu hm, ?_⟩
      by_cases hv : v.upc = .idle
      · exact .inr hv
      · exact .inl (labelOf_nextLabels hlabel _ (micro_accesses hm).2 hv)
    · simp only [micro, hidle, Host.Outcome.next.injEq] at hm
      exact hm ▸ ⟨hu, .inr hidle⟩
  rcases h with hexec | ⟨hlabel, hadv⟩
  · obtain ⟨check, hcmd, -⟩ := exec_foreground hp s
    rcases startCommand_eq_next (hcmd.symm.trans hexec) with ⟨r, -, rfl⟩ | ⟨-, haccept⟩
    · exact hrefused r
    · exact (accept_keeps _ hrun ⟨haccepted, .inl (labelOf_firstLabel hp)⟩ haccept).1
  · exact (advance_keeps _ hrun ⟨hs, .inl hlabel⟩ hadv).1

/-! ### What DRIVE and DROP leave unchanged -/

/-- What neither DRIVE nor DROP changes: the binding, the buffer, the interrupt side, the outside, and the peripheral's
configuration, mask, sources and receive queue. -/
def operationFrame (s : State) :=
  (s.life, s.base, s.irqcnt, s.len, s.buf, s.ipc, s.irqReq, s.irqDone, s.wakeOut, outsideView s, configView s.uart,
    sourcesView s.uart, s.uart.rxq)

/-- A label of DRIVE or DROP leaves all of that unchanged, and the cursor never goes back. -/
theorem operationFrame_of_micro {s t : State} (hlabel : operating s.upc = true) (h : micro s = .next t) :
    operationFrame t = operationFrame s ∧ s.cur ≤ t.cur := by
  cases hp : s.upc <;> simp only [micro, hp] at h hlabel
  case d1 => rcases microD1_next.mp h with ⟨-, rfl⟩ | ⟨-, rfl⟩ <;> exact ⟨rfl, Nat.le_refl _⟩
  case d2 => obtain ⟨-, ⟨-, rfl⟩ | ⟨-, rfl⟩⟩ := microD2_next.mp h <;> exact ⟨rfl, Nat.le_refl _⟩
  case d3 => obtain ⟨-, rfl⟩ := microD3_next.mp h; exact ⟨rfl, Nat.le_refl _⟩
  case d4 => obtain ⟨-, b, -, rfl⟩ := microD4_next.mp h; exact ⟨rfl, Nat.le_refl _⟩
  case d5 => cases h; exact ⟨rfl, Nat.le_succ _⟩
  case ds | x1 => cases h; exact ⟨rfl, Nat.le_refl _⟩
  all_goals exact nomatch hlabel

theorem operating_of_labelOf_drive {h : Nat} {p : Phase} (hp : labelOf (.drive h) p = true) : operating p = true := by
  simp only [labelOf, decide_eq_true_eq] at hp
  revert p
  decide

/-- DRIVE leaves its frame unchanged in every step. -/
theorem StepOf.operationFrame_of_drive {h : Nat} {s t : State} (hstep : StepOf (.drive h) s t) :
    operationFrame t = operationFrame s ∧ s.cur ≤ t.cur := by
  refine hstep.keeps (P := fun u => operationFrame u = operationFrame s ∧ s.cur ≤ u.cur) rfl ⟨rfl, Nat.le_refl _⟩
    (fun _ => ⟨rfl, Nat.le_refl _⟩) ⟨rfl, Nat.le_refl _⟩ ?_
  rintro u v hlabel ⟨hframe, hcur⟩ hm
  obtain ⟨hframe', hcur'⟩ := operationFrame_of_micro (operating_of_labelOf_drive hlabel) hm
  exact ⟨hframe'.trans hframe, hcur.trans hcur'⟩

/-- DROP leaves its frame, the peripheral, the cursor and the accesses unchanged in every step. -/
theorem StepOf.operationFrame_of_drop {s t : State} (hstep : StepOf .drop s t) :
    operationFrame t = operationFrame s ∧ t.uart = s.uart ∧ t.cur = s.cur ∧
      blockAccesses t.trace = blockAccesses s.trace := by
  refine hstep.keeps
    (P := fun u => operationFrame u = operationFrame s ∧ u.uart = s.uart ∧ u.cur = s.cur ∧
      blockAccesses u.trace = blockAccesses s.trace)
    rfl ⟨rfl, rfl, rfl, rfl⟩ (fun r => ⟨rfl, rfl, rfl, by simp [blockAccesses]⟩)
    ⟨rfl, rfl, rfl, by simp [blockAccesses]⟩ ?_
  rintro u v hlabel ⟨hframe, huart, hcur, hacc⟩ hm
  have hp : u.upc = .x1 := of_decide_eq_true hlabel
  have hframe' := (operationFrame_of_micro (by rw [hp]; rfl) hm).1
  have hacc' := (micro_accesses hm).1
  simp only [hp, accessOf, List.append_nil] at hacc'
  simp only [micro, hp] at hm
  cases hm
  exact ⟨hframe'.trans hframe, huart, hcur, hacc'.trans hacc⟩

/-- Settles O48: every label of the two commands keeps their frame, and X1 makes no access. -/
theorem frameOfDriveAndDrop : Obligations.FrameOfDriveAndDrop := by
  intro i s t hi hstep
  have hkept : operationFrame t = operationFrame s ∧ s.cur ≤ t.cur ∧
      (i = .drop → t.uart = s.uart ∧ t.cur = s.cur ∧ blockAccesses t.trace = blockAccesses s.trace) := by
    rcases hi with ⟨h, rfl⟩ | rfl
    · obtain ⟨hframe, hcur⟩ := hstep.operationFrame_of_drive
      exact ⟨hframe, hcur, nofun⟩
    · obtain ⟨hframe, huart, hcur, hacc⟩ := hstep.operationFrame_of_drop
      exact ⟨hframe, hcur.ge, fun _ => ⟨huart, hcur, hacc⟩⟩
  obtain ⟨hframe, hcur, hdrop⟩ := hkept
  simp only [operationFrame, outsideView, configView, sourcesView, Prod.mk.injEq] at hframe
  obtain ⟨hlife, hbase, hcnt, hlen, hbuf, hipc, hreq, hdone, hout, ⟨hcmd, hcfg, hbus, hsched, -⟩,
    ⟨hibrd, hfbrd, hlcrh, hcr, hifls, himsc⟩, ⟨hris, -⟩, hrxq⟩ := hframe
  exact ⟨hlife, hbase, hcnt, hlen, hbuf, hipc, hreq, hdone, hout, hcmd, hcfg, hbus, hsched, hcur, hibrd, hfbrd, hlcrh,
    hcr, hifls, himsc, hris, hrxq, hdrop⟩

/-! ### How a DRIVE ends -/

/-- A DRIVE of handle h presented in s is in progress: it has not answered, the operation is alive, the cell is as it
was, and past D1 a byte is left (R188). -/
structure DriveInProgress (h : Nat) (s u : State) : Prop where
  label : labelOf (.drive h) u.upc = true
  handle : u.scr.h = h
  left : pastCheck u.upc = true → u.cur < u.len
  rspOut : u.rspOut = s.rspOut
  alive : u.opst ≠ .none
  wake : u.wake = s.wake

/-- It has suspended: the handle is registered and bytes are left (R187). -/
structure DriveSuspended (h : Nat) (s u : State) : Prop where
  idle : u.upc = .idle
  rspOut : u.rspOut = s.rspOut ++ [.suspended]
  opst : u.opst = .suspended
  wake : u.wake = some h
  left : u.cur < u.len

/-- It has completed: the count is the cursor, and the cell is as it was (R183). -/
structure DriveCompleted (s u : State) : Prop where
  idle : u.upc = .idle
  rspOut : u.rspOut = s.rspOut ++ [.complete u.cur]
  opst : u.opst = .complete
  done : u.len ≤ u.cur
  wake : u.wake = s.wake

/-- What a DRIVE of handle h presented in s has come to. -/
def DriveOutcome (h : Nat) (s u : State) : Prop :=
  DriveSuspended h s u ∨ DriveCompleted s u ∨ DriveInProgress h s u

/-- A label of a DRIVE in progress leads to the next one, or ends it: D1 completes, DS suspends. -/
theorem DriveInProgress.after_micro {h : Nat} {s u v : State} (hu : DriveInProgress h s u) (hm : micro u = .next v) :
    DriveOutcome h s v := by
  obtain ⟨hlabel, hh, hleft, hrsp, halive, hwake⟩ := hu
  cases hp : u.upc <;> simp only [micro, hp] at hm hlabel hleft
  case d1 =>
    rcases microD1_next.mp hm with ⟨hdone, rfl⟩ | ⟨hmore, rfl⟩
    · exact .inr (.inl ⟨rfl, hrsp ▸ rfl, rfl, hdone, hwake⟩)
    · exact .inr (.inr ⟨rfl, hh, fun _ => hmore, hrsp, halive, hwake⟩)
  case d2 =>
    obtain ⟨-, ⟨-, rfl⟩ | ⟨-, rfl⟩⟩ := microD2_next.mp hm
    · exact .inr (.inr ⟨rfl, hh, fun _ => hleft rfl, hrsp, halive, hwake⟩)
    · exact .inr (.inr ⟨rfl, hh, fun _ => hleft rfl, hrsp, nofun, hwake⟩)
  case ds =>
    cases hm
    exact .inl ⟨rfl, hrsp ▸ rfl, rfl, congrArg some hh, hleft rfl⟩
  case d3 =>
    obtain ⟨-, rfl⟩ := microD3_next.mp hm
    cases txBusy (answer u .fr) <;>
      exact .inr (.inr ⟨rfl, hh, fun _ => hleft rfl, hrsp, halive, hwake⟩)
  case d4 =>
    obtain ⟨-, b, -, rfl⟩ := microD4_next.mp hm
    exact .inr (.inr ⟨rfl, hh, fun _ => hleft rfl, hrsp, halive, hwake⟩)
  case d5 => cases hm; exact .inr (.inr ⟨rfl, hh, nofun, hrsp, halive, hwake⟩)
  all_goals exact nomatch hlabel

theorem DriveOutcome.after_micro {h : Nat} {s u v : State} (hu : DriveOutcome h s u) (hm : micro u = .next v) :
    DriveOutcome h s v := by
  have hstays : u.upc = .idle → DriveOutcome h s v := by
    intro hidle
    simp only [micro, hidle, Host.Outcome.next.injEq] at hm
    exact hm ▸ hu
  rcases hu with hsuspended | hcompleted | hprogress
  · exact hstays hsuspended.idle
  · exact hstays hcompleted.idle
  · exact hprogress.after_micro hm

/-- Settles O36: the DRIVE is in progress from its acceptance on, until D1 completes it or DS suspends it. -/
theorem driveOutcomes : Obligations.DriveOutcomes := by
  intro h s t ha hstep
  have hend : DriveOutcome h s t := by
    rcases hstep with ⟨-, hexec⟩ | ⟨hlabel, hh, hleft, hadv⟩
    · rw [exec_of_admitted (i := .drive h) rfl ha] at hexec
      refine accept_keeps (DriveOutcome h s) (fun _ _ hu => hu.after_micro) ?_ hexec
      exact .inr (.inr ⟨rfl, rfl, nofun, rfl, ha.2, rfl⟩)
    · refine advance_keeps (DriveOutcome h s) (fun _ _ hu => hu.after_micro) ?_ hadv
      exact .inr (.inr ⟨hlabel, hh, hleft, rfl, ha.2, rfl⟩)
  rcases hend with hsuspended | hcompleted | hprogress
  · exact .inl ⟨hsuspended.idle, hsuspended.rspOut, hsuspended.opst, hsuspended.wake, hsuspended.left⟩
  · exact .inr (.inl ⟨hcompleted.idle, hcompleted.rspOut, hcompleted.opst, hcompleted.done, hcompleted.wake⟩)
  · exact .inr (.inr ⟨hprogress.label, hprogress.rspOut, hprogress.alive, hprogress.wake⟩)

end Sys2Proof.Machine
end

section
/-! The micro-steps of BEGIN, DRIVE and DROP one by one (R180 to R190 of 41_async_write.md), and the commands that run
alone through them: BEGIN and DROP, a DRIVE that suspends at once, and a DRIVE of a complete operation. -/

namespace Sys2Proof.Machine

/-! ### The labels -/

/-- B1 captures the latched buffer and ends BEGIN (R180, R181). -/
theorem microB1_eq (s : State) :
    microB1 s = .next { s with
      buf := s.scr.bytes
      len := s.scr.bytes.length
      cur := 0
      opst := if s.scr.bytes = [] then .complete else .active
      upc := .idle
      rspOut := s.rspOut ++ [.ok]
      trace := s.trace ++ [.rsp .command .ok]
      ghost := { s.ghost with opWrites := [] } } := by
  simp only [microB1, List.length_eq_zero_iff]
  rfl

/-- X1 ends the operation, the cell kept or emptied (R190, U2 of 93_implementation_defined.md). -/
theorem microX1_eq (s : State) :
    ∃ w, (w = s.wake ∨ w = none) ∧ microX1 s = .next { s with
      opst := .none
      wake := w
      upc := .idle
      draws := s.draws + 1
      rspOut := s.rspOut ++ [.ok]
      trace := s.trace ++ [.rsp .command .ok]
      ghost := { s.ghost with opWrites := [] } } :=
  ⟨if Config.dropKeepsWake s.draws then s.wake else none, ite_eq_or_eq _ _ _, rfl⟩

/-- With the cursor at the length D1 completes the operation (R183). -/
theorem microD1_of_done {s : State} (h : s.len ≤ s.cur) :
    microD1 s = .next (respond (.complete s.cur) { s with opst := .complete }) :=
  microD1_next.mpr (.inl ⟨h, rfl⟩)

/-- With bytes left D1 goes on to D2 (R183). -/
theorem microD1_of_left {s : State} (h : s.cur < s.len) : microD1 s = .next { s with upc := .d2 } :=
  microD1_next.mpr (.inr ⟨h, rfl⟩)

/-- The state after one read of FR that answered f, at label p. -/
def afterPoll (p : Phase) (f : Word) (s : State) : State :=
  { s with
    upc := p
    scr := { s.scr with f := f }
    uart := uartAfterRead s.uart .fr
    draws := s.draws + 1
    trace := s.trace ++ [.read .fr (s.base + 0x18) f] }

/-- Where the full flag reads set D2 goes on to DS (R185). -/
theorem microD2_of_full {s : State} {f : Word} (hl : Launch s) (ha : answer s .fr = f) (hf : txFull f = true) :
    microD2 s = .next (afterPoll .ds f s) := by
  subst ha
  exact microD2_next.mpr ⟨hl, .inl ⟨hf, rfl⟩⟩

/-- Where it reads clear D2 goes on to D3 with the operation ACTIVE (R185). -/
theorem microD2_of_room {s : State} {f : Word} (hl : Launch s) (ha : answer s .fr = f) (hf : txFull f = false) :
    microD2 s = .next { afterPoll .d3 f s with opst := .active } := by
  subst ha
  exact microD2_next.mpr ⟨hl, .inr ⟨hf, rfl⟩⟩

/-- Where the busy flag reads clear D3 goes on to D4 (R186). -/
theorem microD3_of_clear {s : State} {f : Word} (hl : Launch s) (ha : answer s .fr = f) (hf : txBusy f = false) :
    microD3 s = .next (afterPoll .d4 f s) := by
  subst ha
  exact microD3_next.mpr ⟨hl, by simp only [hf, Bool.false_eq_true, if_false]; rfl⟩

/-- Settles O30: each label is one equation of its micro-step, the two polls by the flag they test. -/
theorem driveMicroSteps : Obligations.DriveMicroSteps := by
  refine ⟨fun s hp => ?b1, fun s hp => ?x1, fun s hp => ⟨fun h => ?done, fun h => ?left⟩, fun s hp => ?ds,
    fun s hp => ?d5, fun s hl => ⟨fun hp => ?d2, fun hp => ?d3, fun b hp hb => ?d4⟩⟩
  all_goals simp only [micro, hp]
  case b1 => exact microB1_eq s
  case x1 => exact microX1_eq s
  case done => exact microD1_of_done h
  case left => exact microD1_of_left h
  case ds | d5 => rfl
  case d2 =>
    cases hf : (answer s .fr).getLsbD 5 with
    | true => exact microD2_of_full hl rfl hf
    | false => exact microD2_of_room hl rfl hf
  case d3 => exact microD3_next.mpr ⟨hl, rfl⟩
  case d4 => exact microD4_next.mpr ⟨hl, b, hb, rfl⟩

/-! ### BEGIN and DROP -/

/-- Settles O29: BEGIN is its one label B1. -/
theorem beginCapturesTheBuffer : Obligations.BeginCapturesTheBuffer := by
  intro bytes s hd hq
  rw [List.append_cons s.trace]
  exact exec_next_of_micro (i := .beginWrite bytes) rfl hd hq (microB1_eq _) rfl

/-- Settles O37: DROP is its one label X1. -/
theorem dropFreesTheDriver : Obligations.DropFreesTheDriver := by
  intro s ha hq
  obtain ⟨w, hw, hmicro⟩ := microX1_eq { latched .drop (logCmd .drop s) with upc := .x1 }
  refine ⟨w, hw, ?_⟩
  rw [List.append_cons s.trace]
  exact exec_next_of_micro (i := .drop) rfl ha hq hmicro rfl

/-! ### A DRIVE that runs alone -/

/-- The state in which a DRIVE of handle h presented in s is at its first label. -/
def driving (h : Nat) (s : State) : State :=
  { s with
    upc := .d1
    scr := { s.scr with h := h }
    woken := s.woken.filter (fun x => decide (x ≠ h))
    trace := s.trace ++ [.cmd (.drive h)] }

@[simp] theorem answer_driving (h : Nat) (s : State) (r : Reg) : answer (driving h s) r = answer s r :=
  answer_congr r rfl rfl

/-- A DRIVE admitted in a quiet state runs from D1 with five micro-steps for each byte left, and nine. -/
theorem exec_drive_of_quiet {h : Nat} {s : State} (ha : OperationAlive s) (hq : quiet s = true) :
    exec (.drive h) s = runMicros (5 * (s.len - s.cur) + 9) (driving h s) :=
  calc exec (.drive h) s
    _ = accept (driving h s) := exec_of_admitted rfl ha
    _ = advance (driving h s) := accept_of_quiet hq
    _ = runMicros (5 * (s.len - s.cur) + 9) (driving h s) := advance_of_quiet hq

/-- A run from D1 with no byte left completes the operation. -/
theorem runMicros_completes {n : Nat} {s : State} (hp : s.upc = .d1) (hdone : s.len ≤ s.cur) :
    runMicros (n + 1) s = .next (respond (.complete s.cur) { s with opst := .complete }) := by
  refine runMicros_stop ?_ (.inl rfl)
  simp only [micro, hp]
  exact microD1_of_done hdone

/-- A run from D1 with a byte left and the FIFO full suspends the operation. -/
theorem runMicros_suspends {n : Nat} {s : State} {f : Word} (hp : s.upc = .d1) (hl : Launch s) (hcur : s.cur < s.len)
    (ha : answer s .fr = f) (hf : txFull f = true) :
    runMicros (n + 3) s = .next (respond .suspended
      { registerWake s.scr.h (afterPoll .ds f { s with upc := .d2 }) with opst := .suspended }) := by
  have hd1 : micro s = .next { s with upc := .d2 } := by simp only [micro, hp]; exact microD1_of_left hcur
  have hd2 : micro { s with upc := .d2 } = .next (afterPoll .ds f { s with upc := .d2 }) := microD2_of_full hl ha hf
  rw [runMicros_go hd1 nofun (by simp [hp]), runMicros_go hd2 nofun nofun]
  exact runMicros_stop rfl (.inl rfl)

/-- A run from D1 with a byte left and room in the FIFO goes on to D3 with the operation ACTIVE. -/
theorem runMicros_to_d3 {n : Nat} {s : State} {f : Word} (hp : s.upc = .d1) (hl : Launch s) (hcur : s.cur < s.len)
    (ha : answer s .fr = f) (hf : txFull f = false) :
    runMicros (n + 2) s = runMicros n { afterPoll .d3 f { s with upc := .d2 } with opst := .active } := by
  have hd1 : micro s = .next { s with upc := .d2 } := by simp only [micro, hp]; exact microD1_of_left hcur
  have hd2 : micro { s with upc := .d2 } = .next { afterPoll .d3 f { s with upc := .d2 } with opst := .active } :=
    microD2_of_room hl ha hf
  rw [runMicros_go hd1 nofun (by simp [hp]), runMicros_go hd2 nofun nofun]

/-- Settles O32: the DRIVE goes through D1, D2 and DS. -/
theorem driveSuspendsOnAFullFifo : Obligations.DriveSuspendsOnAFullFifo := by
  intro h s ha hq hl hcur hf
  have hrun := runMicros_suspends (n := 5 * (s.len - s.cur) + 6) (s := driving h s) rfl hl hcur
    (answer_driving h s .fr) hf
  rw [List.append_cons s.trace, List.append_cons (_ ++ _)]
  exact (exec_drive_of_quiet ha hq).trans hrun

/-- Settles O35: without the launch premises D2 refuses both; a full FIFO suspends both; otherwise D2 makes both
ACTIVE. -/
theorem driveIgnoresActiveOrSuspended : Obligations.DriveIgnoresActiveOrSuspended := by
  intro h s hq hlife hcur
  have halive {x : OpState} (hx : x ≠ .none) : OperationAlive { s with opst := x } := ⟨hlife, hx⟩
  cases hrefused : accessRefusal s with
  | some e =>
    have hexec (x : OpState) (hx : x ≠ .none) :=
      exec_drive_refused (s := { s with opst := x }) hrefused (halive hx) hq hcur h
    exact (hexec .active nofun).trans (hexec .suspended nofun).symm
  | none =>
    have hl : Launch s := launch_of_accessRefusal hrefused
    cases hf : txFull (answer s .fr) with
    | true =>
      have hexec (x : OpState) (hx : x ≠ .none) :=
        driveSuspendsOnAFullFifo h { s with opst := x } (halive hx) hq hl hcur hf
      exact (hexec .active nofun).trans (hexec .suspended nofun).symm
    | false =>
      have hexec (x : OpState) (hx : x ≠ .none) := (exec_drive_of_quiet (halive hx) hq).trans
        (runMicros_to_d3 (s := driving h { s with opst := x }) rfl hl hcur rfl hf)
      exact (hexec .active nofun).trans (hexec .suspended nofun).symm

/-! ### DRIVE of a complete operation -/

/-- A DRIVE with no byte left responds COMPLETE at D1 (R183). -/
theorem exec_drive_of_done {h : Nat} {s : State} (ha : OperationAlive s) (hq : quiet s = true) (hdone : s.len ≤ s.cur) :
    exec (.drive h) s = .next (respond (.complete s.cur) { driving h s with opst := .complete }) :=
  (exec_drive_of_quiet ha hq).trans (runMicros_completes rfl hdone)

/-- Settles O31: each DRIVE answers COMPLETE and leaves a complete operation as it was. -/
theorem driveOfACompleteOperationIsIdempotent : Obligations.DriveOfACompleteOperationIsIdempotent := by
  intro k h s hlife hop hcur hupc hq
  induction k generalizing s with
  | zero => exact ⟨s, rfl, (List.append_nil _).symm, hop, rfl, rfl, rfl, rfl, rfl, hlife, rfl, rfl, hupc, rfl, rfl, rfl⟩
  | succ k ih =>
    have hexec := exec_drive_of_done (h := h) ⟨hlife, by simp [hop]⟩ hq hcur.ge
    obtain ⟨t, ht, hrsp, hview⟩ := ih (respond (.complete s.cur) { driving h s with opst := .complete }) hlife rfl hcur
      rfl hq
    refine ⟨t, ?_, ?_, ?_⟩
    · rw [execTimes, hexec, andThen_next, ht]
    · simp [hrsp, hcur, driving, List.replicate_succ]
    · simpa [driving, blockAccesses] using hview

end Sys2Proof.Machine
end

section
/-! A DRIVE that sends bytes (R182 to R189, R193, R194, R198 of 41_async_write.md): one byte is five micro-steps under
two flag answers, and k bytes are k times that. -/

namespace Sys2Proof.Machine

/-! ### One byte -/

/-- The coming answers of FR are l; an empty l says nothing. -/
def FlagAnswers (l : List Word) (s : State) : Prop := l ≠ [] → s.uart.frq = l

/-- The first of the coming answers is what FR answers. -/
theorem FlagAnswers.answer_eq {f : Word} {l : List Word} {s : State} (h : FlagAnswers (f :: l) s) : answer s .fr = f :=
  answer_fr_cons (h (List.cons_ne_nil f l))

/-- A poll of FR uses up the first of the coming answers. -/
theorem FlagAnswers.afterPoll {f : Word} {l : List Word} {s : State} (h : FlagAnswers (f :: l) s) (p : Phase)
    (v : Word) : FlagAnswers l (afterPoll p v s) := by
  intro hl
  obtain ⟨g, l, rfl⟩ := List.exists_cons_of_ne_nil hl
  have hfrq := h (List.cons_ne_nil f _)
  simp only [Machine.afterPoll, uartAfterRead, hfrq, frqAfterRead_cons_cons]

/-- The state after D4 has written the byte b and D5 has advanced the cursor. -/
def afterByte (b : Byte) (s : State) : State :=
  { s with
    upc := .d1
    cur := s.cur + 1
    uart := { s.uart with txlog := s.uart.txlog ++ [zext32 b] }
    trace := s.trace ++ [.write .dr s.base (zext32 b)]
    ghost := { s.ghost with opWrites := s.ghost.opWrites ++ [zext32 b] } }

/-- From D4 two micro-steps write the byte at the cursor and advance it. -/
theorem runMicros_afterByte {n : Nat} {s : State} {b : Byte} (hp : s.upc = .d4) (hl : Launch s)
    (hb : s.buf[s.cur]? = some b) : runMicros (n + 2) s = runMicros n (afterByte b s) := by
  have hd4 : micro s = .next { afterWrite s .dr (zext32 b) with
      upc := .d5, ghost := { s.ghost with opWrites := s.ghost.opWrites ++ [zext32 b] } } := by
    simp only [micro, hp]
    exact microD4_next.mpr ⟨hl, b, hb, rfl⟩
  rw [runMicros_go hd4 nofun (by simp [hp])]
  exact runMicros_go rfl nofun nofun

/-- The state after one byte b has gone from D1 back to D1 under the flag answers f and g. -/
def byteSent (f g : Word) (b : Byte) (s : State) : State :=
  afterByte b (afterPoll .d4 g { afterPoll .d3 f { s with upc := .d2 } with opst := .active })

/-- From D1, with the answers f not full and g not busy, five micro-steps send the byte at the cursor. -/
theorem runMicros_byteSent {n : Nat} {s : State} {f g : Word} {l : List Word} {b : Byte} (hp : s.upc = .d1)
    (hl : Launch s) (hcur : s.cur < s.len) (hb : s.buf[s.cur]? = some b) (ha : FlagAnswers (f :: g :: l) s)
    (hf : txFull f = false) (hg : txBusy g = false) :
    runMicros (n + 5) s = runMicros n (byteSent f g b s) := by
  have ha2 : FlagAnswers (f :: g :: l) { s with upc := .d2 } := ha
  have ha3 : FlagAnswers (g :: l) { afterPoll .d3 f { s with upc := .d2 } with opst := .active } := ha2.afterPoll .d3 f
  have hd3 : micro { afterPoll .d3 f { s with upc := .d2 } with opst := .active } =
      .next (afterPoll .d4 g { afterPoll .d3 f { s with upc := .d2 } with opst := .active }) :=
    microD3_of_clear hl ha3.answer_eq hg
  rw [runMicros_to_d3 hp hl hcur ha.answer_eq hf, runMicros_go hd3 nofun nofun]
  exact runMicros_afterByte rfl hl hb

/-! ### Many bytes -/

/-- What a DRIVE that sends leaves unchanged besides the frame of DRIVE: the handle, the cell and the responses. -/
def sendingFrame (s : State) := (operationFrame s, s.scr.h, s.wake, s.rspOut)

/-- From s to t a DRIVE at D1 has sent k bytes under the answers fs, and the answers l are left. -/
structure Sent (k : Nat) (fs l : List Word) (s t : State) : Prop where
  label : t.upc = .d1
  cur : t.cur = s.cur + k
  answers : FlagAnswers l t
  txlog : t.uart.txlog = s.uart.txlog ++ ((s.buf.drop s.cur).take k).map zext32
  trace : t.trace = s.trace ++ sendEvents s.base s.buf k s.cur fs
  frame : sendingFrame t = sendingFrame s

/-- A byte sent, then k more. -/
theorem Sent.cons {k : Nat} {f g : Word} {fs l : List Word} {b : Byte} {s t : State} (hb : s.buf[s.cur]? = some b)
    (h : Sent k fs l (byteSent f g b s) t) : Sent (k + 1) (f :: g :: fs) l s t where
  label := h.label
  cur := by rw [h.cur]; simp only [byteSent, afterByte, afterPoll]; omega
  answers := h.answers
  txlog := by
    obtain ⟨hlt, hget⟩ := List.getElem?_eq_some_iff.mp hb
    rw [h.txlog, List.drop_eq_getElem_cons hlt, hget, List.take_succ_cons, List.map_cons, List.append_cons]
    rfl
  trace := by
    have hgetD : s.buf.getD s.cur 0 = b := by rw [List.getD_eq_getElem?_getD, hb]; rfl
    rw [h.trace, sendEvents, hgetD, List.append_cons s.trace, List.append_cons (s.trace ++ _),
      List.append_cons (s.trace ++ _ ++ _)]
    rfl
  frame := h.frame

/-- Answers that let k bytes go, k bytes left: the run from D1 sends them and is at D1 again. -/
theorem runMicros_sends {k : Nat} {fs l : List Word} {s : State} (hp : s.upc = .d1) (hl : Launch s)
    (hlen : s.len = s.buf.length) (hcur : s.cur + k ≤ s.len) (ha : FlagAnswers (fs ++ l) s)
    (hfs : fs.length = 2 * k) (hsend : letsSend k fs = true) :
    ∃ t, (∀ n, runMicros (n + 5 * k) s = runMicros n t) ∧ Sent k fs l s t := by
  induction k generalizing fs s with
  | zero =>
    obtain rfl := List.length_eq_zero_iff.mp hfs
    exact ⟨s, fun _ => rfl, ⟨hp, rfl, ha, (List.append_nil _).symm, (List.append_nil _).symm, rfl⟩⟩
  | succ k ih =>
    match fs, hfs with
    | f :: g :: fs, hfs =>
      simp only [letsSend, Bool.and_eq_true, Bool.not_eq_true'] at hsend
      obtain ⟨⟨hf, hg⟩, hsend⟩ := hsend
      have hlt : s.cur < s.buf.length := by omega
      have hb : s.buf[s.cur]? = some s.buf[s.cur] := List.getElem?_eq_getElem hlt
      have hbyte (n : Nat) : runMicros (n + 5) s = runMicros n (byteSent f g s.buf[s.cur] s) :=
        runMicros_byteSent hp hl (by omega) hb ha hf hg
      have ha' : FlagAnswers (fs ++ l) (byteSent f g s.buf[s.cur] s) := by
        have ha2 : FlagAnswers (f :: g :: (fs ++ l)) { s with upc := .d2 } := ha
        exact (ha2.afterPoll .d3 f).afterPoll .d4 g
      have hleft : (byteSent f g s.buf[s.cur] s).cur + k ≤ (byteSent f g s.buf[s.cur] s).len := by
        simp only [byteSent, afterByte, afterPoll]
        omega
      obtain ⟨t, hrun, hsent⟩ := ih (s := byteSent f g s.buf[s.cur] s) rfl hl hlen hleft ha'
        (by simpa [Nat.mul_succ] using hfs) hsend
      exact ⟨t, fun n => (hbyte (n + 5 * k)).trans (hrun n), hsent.cons hb⟩

/-- A DRIVE that runs alone sends the k bytes its answers let go, and is at D1 with micro-steps to spare. -/
theorem exec_drive_sends {k : Nat} (h : Nat) {fs l : List Word} {s : State} (ha : OperationAlive s)
    (hq : quiet s = true) (hl : Launch s) (hlen : s.len = s.buf.length) (hcur : s.cur + k ≤ s.len)
    (hfrq : s.uart.frq = fs ++ l) (hfs : fs.length = 2 * k) (hsend : letsSend k fs = true) :
    ∃ n t, exec (.drive h) s = runMicros (n + 3) t ∧ Sent k fs l (driving h s) t := by
  obtain ⟨t, hrun, hsent⟩ := runMicros_sends (s := driving h s) rfl hl hlen hcur (fun _ => hfrq) hfs hsend
  obtain ⟨n, hn⟩ : ∃ n, 5 * (s.len - s.cur) + 9 = n + 3 + 5 * k := ⟨5 * (s.len - s.cur - k) + 6, by omega⟩
  exact ⟨n, t, by rw [exec_drive_of_quiet ha hq, hn, hrun], hsent⟩

/-- Settles O33: the bytes go, and the full flag suspends the DRIVE. -/
theorem driveSendsAChunkThenSuspends : Obligations.DriveSendsAChunkThenSuspends := by
  intro k h fs rest f s ha hq hl hlen hcur hfrq hfs hsend hfull
  obtain ⟨n, t, hexec, hsent⟩ := exec_drive_sends h ha hq hl hlen hcur.le hfrq hfs hsend
  obtain ⟨hlabel, htcur, hans, htx, htr, hframe⟩ := hsent
  simp only [sendingFrame, operationFrame, outsideView, Prod.mk.injEq] at hframe
  obtain ⟨⟨hlife, hbase, hcnt, htlen, hbuf, -, -, -, -, ⟨-, hcfg, -⟩, -⟩, hh, -, hrsp⟩ := hframe
  have hleft : t.cur < t.len := by rw [htcur, htlen]; exact hcur
  have hend := runMicros_suspends (n := n) hlabel (launch_congr hbase hcfg hl) hleft hans.answer_eq hfull
  refine ⟨_, hexec.trans hend, htcur, rfl, congrArg some hh, rfl, hrsp ▸ rfl, ?_, ?_, hbuf, htlen, hcnt, hbase,
    hlife.trans ha.1⟩
  · exact (uartAfterRead_txlog _ _).trans htx
  · have htrace : t.trace = s.trace ++ [.cmd (.drive h)] ++ sendEvents s.base s.buf k s.cur fs := htr
    have haddr : t.base = s.base := hbase
    rw [← htrace, List.append_cons, ← haddr]
    rfl

/-- Settles O34: all the bytes left go, and D1 completes the DRIVE. -/
theorem driveSendsTheRestThenCompletes : Obligations.DriveSendsTheRestThenCompletes := by
  intro k h fs rest s ha hq hl hlen hcur hfrq hfs hsend
  obtain ⟨n, t, hexec, hsent⟩ := exec_drive_sends h ha hq hl hlen hcur.le hfrq hfs hsend
  obtain ⟨hlabel, htcur, -, htx, htr, hframe⟩ := hsent
  simp only [sendingFrame, operationFrame, Prod.mk.injEq] at hframe
  obtain ⟨⟨hlife, hbase, hcnt, htlen, hbuf, -⟩, -, hwake, hrsp⟩ := hframe
  have hdone : t.cur = s.len := htcur.trans hcur
  have hend := runMicros_completes (n := n + 2) hlabel (htlen.trans hdone.symm).le
  have hall : (s.buf.drop s.cur).take k = s.buf.drop s.cur := List.take_of_length_le (by rw [List.length_drop]; omega)
  refine ⟨_, hexec.trans hend, hdone, rfl, hwake, rfl, ?_, ?_, ?_, hbuf, htlen, hcnt, hbase, hlife.trans ha.1⟩
  · rw [← hdone, respond_rspOut, hrsp]
    rfl
  · exact hall ▸ htx
  · rw [← hdone, respond_trace, htr]
    rfl

end Sys2Proof.Machine
end

section
/-! The wake cell (R83, R187, R190, R213, R217, R270): what each label does to it, and what a step does, which touches it
at most once. -/

namespace Sys2Proof.Machine

/-! ### What each label does to the cell -/

theorem fireWake_wake (s : State) : (fireWake s).wake = if s.cfg.wakeFireClears then none else s.wake := by
  cases hw : s.wake with
  | none => simp [fireWake_none s hw, hw]
  | some w => simp [fireWake_some s hw]

theorem fireWake_wakeOut (s : State) : (fireWake s).wakeOut = s.wakeOut ++ s.wake.toList := by
  cases hw : s.wake with
  | none => simp [fireWake_none s hw]
  | some w => simp [fireWake_some s hw]

/-- No foreground label fires, and none but DS, C3 and X1 touches the cell. -/
theorem micro_wake {s t : State} (h : micro s = .next t) :
    t.wakeOut = s.wakeOut ∧ (s.upc ≠ .ds → s.upc ≠ .c3 → s.upc ≠ .x1 → t.wake = s.wake) := by
  cases hp : s.upc <;> simp only [micro, hp] at h
  case i1 | i2 | i3 | i4 | i5 | i6 | i7 => obtain ⟨-, rfl⟩ := microInit_next.mp h; exact ⟨rfl, fun _ _ _ => rfl⟩
  case p1 => obtain ⟨-, rfl⟩ := microP1_next.mp h; exact ⟨rfl, fun _ _ _ => rfl⟩
  case p2 => obtain ⟨-, rfl⟩ := microP2_next.mp h; exact ⟨rfl, fun _ _ _ => rfl⟩
  case g1 => obtain ⟨-, rfl⟩ := microG1_next.mp h; exact ⟨rfl, fun _ _ _ => rfl⟩
  case g2 => obtain ⟨-, rfl⟩ := microG2_next.mp h; exact ⟨rfl, fun _ _ _ => rfl⟩
  case q1 => obtain ⟨-, rfl⟩ := microQ1_next.mp h; exact ⟨rfl, fun _ _ _ => rfl⟩
  case a1 => obtain ⟨-, rfl⟩ := microA1_next.mp h; exact ⟨rfl, fun _ _ _ => rfl⟩
  case d1 => rcases microD1_next.mp h with ⟨-, rfl⟩ | ⟨-, rfl⟩ <;> exact ⟨rfl, fun _ _ _ => rfl⟩
  case d2 => obtain ⟨-, ⟨-, rfl⟩ | ⟨-, rfl⟩⟩ := microD2_next.mp h <;> exact ⟨rfl, fun _ _ _ => rfl⟩
  case d3 => obtain ⟨-, rfl⟩ := microD3_next.mp h; exact ⟨rfl, fun _ _ _ => rfl⟩
  case d4 => obtain ⟨-, b, -, rfl⟩ := microD4_next.mp h; exact ⟨rfl, fun _ _ _ => rfl⟩
  case idle | c1 | c2 | i8 | b1 | d5 => cases h; exact ⟨rfl, fun _ _ _ => rfl⟩
  case ds => cases h; exact ⟨rfl, fun hne => absurd rfl hne⟩
  case c3 => cases h; exact ⟨rfl, fun _ hne => absurd rfl hne⟩
  case x1 => cases h; exact ⟨rfl, fun _ _ hne => absurd rfl hne⟩

/-- H3 alone touches the cell or fires. -/
theorem entryMicro_wake {s t : State} (h : entryMicro s = .next t) :
    (s.ipc = .h3 → t.wakeOut = s.wakeOut ++ s.wake.toList ∧
      t.wake = if s.cfg.wakeFireClears then none else s.wake) ∧
    (s.ipc ≠ .h3 → t.wakeOut = s.wakeOut ∧ t.wake = s.wake) := by
  rcases entryMicro_eq_next h with ⟨hp, rfl⟩ | ⟨hp, rfl⟩ | ⟨hp, -, rfl⟩ | ⟨hp, rfl⟩ | ⟨hp, -, rfl⟩
  case inr.inr.inr.inl => exact ⟨fun _ => ⟨fireWake_wakeOut s, fireWake_wake s⟩, fun hne => absurd hp hne⟩
  all_goals exact ⟨by simp [hp], by simp⟩

/-! ### The foreground -/

/-- What a foreground command that has ended has done to the cell of s: nothing; it suspended with its handle in it; or
it answered OK with no operation alive and emptied it. -/
def CellAfterCommand (s u : State) : Prop :=
  u.wake = s.wake ∨
  (u.wake = some u.scr.h ∧ u.opst = .suspended ∧ u.rspOut = s.rspOut ++ [.suspended]) ∨
  (u.wake = none ∧ u.opst = .none ∧ u.rspOut = s.rspOut ++ [.ok])

/-- A foreground command presented in s has emitted nothing; it is in progress, the cell and the responses as they were,
or it has ended. -/
def CellInCommand (s u : State) : Prop :=
  u.wakeOut = s.wakeOut ∧
  (u.upc ≠ .idle ∧ u.wake = s.wake ∧ u.rspOut = s.rspOut ∨ u.upc = .idle ∧ CellAfterCommand s u)

theorem CellInCommand.after_micro {s u v : State} (hu : CellInCommand s u) (h : micro u = .next v) :
    CellInCommand s v := by
  obtain ⟨hout, ⟨hbusy, hwake, hrsp⟩ | ⟨hidle, hcell⟩⟩ := hu
  · obtain ⟨hsame, hkept⟩ := micro_wake h
    refine ⟨hsame.trans hout, ?_⟩
    by_cases hds : u.upc = .ds
    · simp only [micro, hds] at h
      cases h
      exact .inr ⟨rfl, .inr (.inl ⟨rfl, rfl, hrsp ▸ rfl⟩)⟩
    by_cases hc3 : u.upc = .c3
    · simp only [micro, hc3] at h
      cases h
      exact .inr ⟨rfl, .inr (.inr ⟨rfl, rfl, hrsp ▸ rfl⟩)⟩
    by_cases hx1 : u.upc = .x1
    · simp only [micro, hx1] at h
      obtain ⟨w, hw, hmicro⟩ := microX1_eq u
      obtain rfl := Host.Outcome.next.inj (hmicro.symm.trans h)
      rcases hw with rfl | rfl
      · exact .inr ⟨rfl, .inl hwake⟩
      · exact .inr ⟨rfl, .inr (.inr ⟨rfl, rfl, hrsp ▸ rfl⟩)⟩
    have hv := (hkept hds hc3 hx1).trans hwake
    rcases micro_answers hbusy h with ⟨hvrsp, hgo⟩ | ⟨hend, -⟩
    · exact .inl ⟨hgo, hv, hvrsp.trans hrsp⟩
    · exact .inr ⟨hend, .inl hv⟩
  · simp only [micro, hidle, Host.Outcome.next.injEq] at h
    exact h ▸ ⟨hout, .inr ⟨hidle, hcell⟩⟩

/-! ### The entry -/

/-- The entry served in s has counted its interrupt past H1, or was in progress already; the cell is as it was and
nothing is emitted, or it has fired the handle the cell held and is at H4 or has ended. -/
structure CellInEntry (s u : State) : Prop where
  cfg : u.cfg = s.cfg
  counted : s.ipc ≠ .idle ∨ u.irqcnt = s.irqcnt + if u.ipc = .h1 then 0 else 1
  cell : (u.wake = s.wake ∧ u.wakeOut = s.wakeOut) ∨
    (u.ipc = .h4 ∨ u.ipc = .idle) ∧ ∃ w, s.wake = some w ∧ u.wakeOut = s.wakeOut ++ [w] ∧
      u.wake = if s.cfg.wakeFireClears then none else some w

/-- A micro-step of the entry leaves H1 with the interrupt counted, goes from H3 to H4, and ends at H4. -/
theorem entryMicro_phase {s t : State} (h : entryMicro s = .next t) :
    t.ipc ≠ .h1 ∧ t.irqcnt = s.irqcnt + (if s.ipc = .h1 then 1 else 0) ∧ (s.ipc = .h3 → t.ipc = .h4) ∧
      (s.ipc = .h4 ∨ s.ipc = .idle → t.ipc = .idle) := by
  rcases entryMicro_eq_next h with ⟨hp, rfl⟩ | ⟨hp, rfl⟩ | ⟨hp, -, rfl⟩ | ⟨hp, rfl⟩ | ⟨hp, -, rfl⟩
  case inr.inr.inl => cases hm : wakeCondition s.cfg (answer s .mis) <;> simp [hp]
  all_goals simp [hp, countIrq]

theorem CellInEntry.after_entryMicro {s u v : State} (hu : CellInEntry s u) (h : entryMicro u = .next v) :
    CellInEntry s v := by
  obtain ⟨hne, hcnt, hfired, hend⟩ := entryMicro_phase h
  obtain ⟨hfire, hkeep⟩ := entryMicro_wake h
  refine ⟨(congrArg Prod.fst (entryMicro_bindView h)).trans hu.cfg, hu.counted.imp_right fun hc => ?_, ?_⟩
  · rw [hcnt, hc, if_neg hne]
    split <;> rfl
  by_cases hp : u.ipc = .h3
  · obtain ⟨hout, hwake⟩ := hfire hp
    obtain ⟨huwake, huout⟩ := hu.cell.resolve_right (by simp [hp])
    rw [huwake, huout] at hout
    rw [huwake, hu.cfg] at hwake
    cases hw : s.wake with
    | none => exact .inl (by simp [hout, hwake, hw])
    | some w => exact .inr ⟨.inl (hfired hp), w, rfl, by simp [hout, hw], by simp [hwake, hw]⟩
  · obtain ⟨hout, hwake⟩ := hkeep hp
    rw [hout, hwake]
    exact hu.cell.imp_right fun ⟨hphase, hcell⟩ => ⟨.inr (hend hphase), hcell⟩

/-! ### A step -/

/-- What the block's own step does to the cell of s: nothing; the entry fires the handle it held; a DRIVE suspends with
its handle in it; or a command that answers OK and leaves no operation empties it. -/
def CellStep (s t : State) : Prop :=
  (t.wake = s.wake ∧ t.wakeOut = s.wakeOut) ∨
  (∃ w, s.wake = some w ∧ t.wakeOut = s.wakeOut ++ [w] ∧ t.wake = (if s.cfg.wakeFireClears then none else some w) ∧
    (s.ipc ≠ .idle ∨ t.irqcnt = s.irqcnt + 1)) ∨
  (t.wake = some t.scr.h ∧ t.opst = .suspended ∧ t.wakeOut = s.wakeOut ∧ t.rspOut = s.rspOut ++ [.suspended]) ∨
  (t.wake = none ∧ t.wakeOut = s.wakeOut ∧ t.opst = .none ∧ t.rspOut = s.rspOut ++ [.ok])

theorem CellInCommand.cellStep {s t : State} (h : CellInCommand s t) : CellStep s t := by
  obtain ⟨hout, ⟨-, hwake, -⟩ | ⟨-, hwake | ⟨hwake, hop, hrsp⟩ | ⟨hwake, hop, hrsp⟩⟩⟩ := h
  · exact .inl ⟨hwake, hout⟩
  · exact .inl ⟨hwake, hout⟩
  · exact .inr (.inr (.inl ⟨hwake, hop, hout, hrsp⟩))
  · exact .inr (.inr (.inr ⟨hwake, hout, hop, hrsp⟩))

theorem CellInEntry.cellStep {s t : State} (h : CellInEntry s t) : CellStep s t := by
  rcases h.cell with hsame | ⟨hphase, w, hw, hout, hwake⟩
  · exact .inl hsame
  · have hne : t.ipc ≠ .h1 := by rcases hphase with hp | hp <;> simp [hp]
    exact .inr (.inl ⟨w, hw, hout, hwake, h.counted.imp_right fun hc => by rw [hc, if_neg hne]⟩)

theorem cellStep_of_advance {s t : State} (hbusy : s.upc ≠ .idle) (h : advance s = .next t) : CellStep s t :=
  (advance_keeps (CellInCommand s) (fun _ _ hu => hu.after_micro) ⟨rfl, .inl ⟨hbusy, rfl, rfl⟩⟩ h).cellStep

theorem cellStep_of_advanceEntry {s t : State} (hbusy : s.ipc ≠ .idle) (h : advanceEntry s = .next t) :
    CellStep s t :=
  (advanceEntry_keeps (CellInEntry s) (fun _ _ hu => hu.after_entryMicro)
    ⟨rfl, .inl hbusy, .inl ⟨rfl, rfl⟩⟩ h).cellStep

theorem cellStep_of_startIrq {p : IrqPort} {s t : State} (h : startIrq p s = .next t) : CellStep s t := by
  rcases startIrq_eq_next h with ⟨r, -, rfl⟩ | ⟨-, h⟩
  · exact .inl (by simp)
  · have htaken : CellInEntry s (takeIrq p (logCmd .irq s)) := ⟨rfl, .inr rfl, .inl ⟨rfl, rfl⟩⟩
    exact (advanceEntry_keeps (CellInEntry s) (fun _ _ hu => hu.after_entryMicro) htaken h).cellStep

theorem cellStep_of_exec {i : Instr} {s t : State} (h : exec i s = .next t) : CellStep s t := by
  rcases exec_eq_next h with ⟨r, a, -, rfl⟩ | ⟨-, h⟩ | ⟨-, r, -, rfl⟩ | ⟨p, hp, -, h⟩
  · exact .inl (by simp)
  · exact cellStep_of_startIrq h
  · exact .inl ⟨rfl, rfl⟩
  · have haccepted : CellInCommand s { latched i (logCmd i s) with upc := p } := by
      cases i <;> cases hp <;> exact ⟨rfl, .inl ⟨nofun, rfl, rfl⟩⟩
    exact (accept_keeps (CellInCommand s) (fun _ _ hu => hu.after_micro) haccepted h).cellStep

theorem cellStep_of_serveCommand {s t : State} (h : serveCommand s = .next t) : CellStep s t := by
  rcases serveCommand_eq_next h with ⟨i, rest, -, h⟩ | ⟨op, rest, -, rfl⟩ | ⟨-, rfl⟩
  · exact (cellStep_of_exec h :)
  · exact .inl ⟨rfl, rfl⟩
  · exact .inl ⟨rfl, rfl⟩

theorem cellStep_of_blockStep {s t : State} (h : blockStep s = .next t) : CellStep s t := by
  rcases blockStep_eq_next h with ⟨x, i, -, -, h⟩ | ⟨-, hbusy, h⟩ | ⟨-, -, -, h⟩ |
    ⟨-, -, -, hbusy, h⟩ | ⟨-, -, -, -, h⟩
  · exact (cellStep_of_exec h :)
  · exact cellStep_of_advanceEntry hbusy h
  · exact (cellStep_of_startIrq h :)
  · exact cellStep_of_advance hbusy h
  · exact cellStep_of_serveCommand h

/-- No outside move but the reset input touches the cell or emits. -/
theorem applyMove_wake {m : Move} (hm : m ≠ .reset) (s : State) :
    (applyMove m s).wake = s.wake ∧ (applyMove m s).wakeOut = s.wakeOut := by
  cases m with
  | reset => exact absurd rfl hm
  | _ => exact ⟨rfl, rfl⟩

/-- A step is the reset input, which empties the cell, or it does to the cell what the block's own step can do. -/
theorem cellStep_of_step {s t : State} (h : step s = .next t) :
    CellStep s t ∨ (∃ rest, s.sched = .reset :: rest) ∧ t.wake = none ∧ t.wakeOut = s.wakeOut := by
  rcases step_eq_next h with ⟨m, rest, hs, -, rfl⟩ | ⟨-, h⟩ | ⟨rest, -, h⟩
  · by_cases hm : m = .reset
    · subst hm
      exact .inr ⟨⟨rest, hs⟩, rfl, rfl⟩
    · exact .inl (.inl (applyMove_wake hm _))
  · exact .inl (cellStep_of_blockStep h)
  · exact .inl (cellStep_of_blockStep h :)

/-- A register row neither touches the cell nor emits. -/
theorem row_wake {i : Instr} {s t : State} (hi : isCommand i = false) (h : exec i s = .next t) :
    t.wake = s.wake ∧ t.wakeOut = s.wakeOut := by
  rcases instr_kind i with ⟨r, hr⟩ | rfl | ⟨p, hp⟩
  · obtain ⟨a, ha⟩ := exec_row hr s
    obtain rfl := Host.Outcome.next.inj (ha.symm.trans h)
    exact ⟨otherAccess_wake s r a, otherAccess_wakeOut s r a⟩
  · cases hi
  · cases i <;> cases hp <;> cases hi

/-- Settles O58: a step does one thing to the cell at most; label by label, DS, C3 and X1 of the foreground and H3 of the
entry are the ones that touch it. -/
theorem wakeCellLaws : Obligations.WakeCellLaws := by
  refine ⟨fun s t h => ?step, fun s t h => ?micro, fun s t => entryMicro_wake, fun m s hm => applyMove_wake hm s,
    fun s => ⟨rfl, rfl⟩, fun i s t => row_wake, fun p r s => ⟨refuse_wake s p r, refuse_wakeOut s p r⟩⟩
  case step =>
    rcases cellStep_of_step h with hcell | ⟨hreset, hwake, hout⟩
    · exact hcell.imp_right (.imp_right (.imp_right fun ⟨hwake, hout, hanswer⟩ => ⟨hwake, hout, .inr hanswer⟩))
    · exact .inr (.inr (.inr ⟨hwake, hout, .inl hreset⟩))
  case micro =>
    obtain ⟨hout, hkept⟩ := micro_wake h
    refine ⟨hout, fun hp => ?_, fun hp => ?_, fun hp => ?_, hkept⟩ <;> simp only [micro, hp] at h
    · cases h; rfl
    · cases h; rfl
    · obtain ⟨w, hw, hmicro⟩ := microX1_eq s
      obtain rfl := Host.Outcome.next.inj (hmicro.symm.trans h)
      exact hw

end Sys2Proof.Machine
end

section
/-! The interrupt entry (R210 to R216 and R222 of 42_interrupt_wake.md): its labels one by one, the IRQ that runs alone
through them, and what every step of it leaves alone. -/

namespace Sys2Proof.Machine

/-! ### The labels -/

/-- The monitored condition as R212 writes it: the word and WAKE_MASK meet. -/
theorem ite_wakeCondition {α : Type} (c : Config) (m : Word) (a b : α) :
    (if wakeCondition c m then a else b) = if m &&& c.wakeMask = 0#32 then b else a := by
  simp only [wakeCondition, ne_eq, decide_not, Bool.not_eq_true', decide_eq_false_iff_not, ite_not]

/-- The state after H2's read of MIS, at label p. -/
def afterStatusRead (p : EntryPhase) (s : State) : State :=
  { s with
    ipc := p
    scr := { s.scr with m := answer s .mis }
    draws := s.draws + 1
    trace := s.trace ++ [.read .mis (s.base + 0x40) (answer s .mis)] }

/-- H2 reads MIS and goes on to H3 where the monitored condition holds, to H4 where not (R212). -/
theorem entryH2_of_launch {s : State} (hl : Launch s) :
    entryH2 s = .next (afterStatusRead (if wakeCondition s.cfg (answer s .mis) then .h3 else .h4) s) :=
  entryH2_next.mpr ⟨hl, rfl⟩

/-- The fire, with a handle in the cell or none (R213, R214, R60 of 10_state.md). -/
theorem fireWake_eq (s : State) :
    fireWake s = { s with
      wake := if s.cfg.wakeFireClears then none else s.wake
      wakeOut := s.wakeOut ++ s.wake.toList
      woken := s.woken ++ s.wake.toList.filter (fun x => decide (x ∉ s.woken))
      trace := s.trace ++ s.wake.toList.map .wakeOut } := by
  cases hw : s.wake with
  | none =>
    have hcell : (if s.cfg.wakeFireClears then none else none) = s.wake := (ite_self _).trans hw.symm
    simp only [fireWake_none s hw, hcell, Option.toList_none, List.filter_nil, List.map_nil, List.append_nil]
  | some w =>
    rw [fireWake_some s hw]
    by_cases hmem : w ∈ s.woken <;> simp [emitWake, hmem]

/-- H4 writes CLEAR_ALL to ICR and responds OK on the port the interrupt came by (R215, R245). -/
theorem entryH4_of_launch {s : State} (hl : Launch s) :
    entryH4 s = .next { s with
      ipc := .idle
      uart := { s.uart with ris := s.uart.ris &&& ~~~ s.cfg.clearAll, icr := s.cfg.clearAll }
      rspOut := if s.irqPort = .command then s.rspOut ++ [.ok] else s.rspOut
      irqDone := if s.irqPort = .request then s.irqDone ++ [.ok] else s.irqDone
      trace := s.trace ++ [.write .icr (s.base + 0x44) s.cfg.clearAll, .rsp s.irqPort .ok]
      ghost := { s.ghost with irqsDone := s.ghost.irqsDone + 1 } } := by
  refine entryH4_next.mpr ⟨hl, ?_⟩
  rw [List.append_cons s.trace]
  cases hp : s.irqPort <;> simp only [returnIrq, afterWrite, placeResponse, hp] <;> rfl

/-- Settles O41: each label is one equation of its micro-step; the fire is split by what the cell holds. -/
theorem fireEmitsTheRegisteredHandle : Obligations.FireEmitsTheRegisteredHandle := by
  refine ⟨fun s w hp hw => ?fired, fun s hp hw => ?empty, fun s hl hp => ?h2, fun s hl hp => ?h4⟩
  case fired =>
    refine ⟨{ fireWake s with ipc := .h4 }, by simp only [entryMicro, hp, entryH3], rfl, ?_⟩
    rw [fireWake_some s hw]
    refine ⟨rfl, rfl, ?_, fun hc => if_pos hc, fun hc => if_neg (Bool.not_eq_true _ ▸ hc), rfl, rfl, rfl, rfl⟩
    by_cases hmem : w ∈ s.woken <;> simp [hmem]
  case empty => simp only [entryMicro, hp, entryH3, fireWake_none s hw]
  case h2 =>
    simp only [entryMicro, hp]
    rw [← ite_wakeCondition]
    exact entryH2_of_launch hl
  case h4 =>
    simp only [entryMicro, hp]
    exact entryH4_of_launch hl

/-! ### The IRQ that runs alone -/

/-- After a micro-step that does not end the entry, the run goes on. -/
theorem runEntry_go {n : Nat} {s t : State} (h : entryMicro s = .next t) (ht : t.ipc ≠ .idle) :
    runEntry (n + 1) s = runEntry n t := by
  simp only [runEntry, h, andThen_next, if_neg ht]

/-- The micro-step that ends the entry ends the run. -/
theorem runEntry_stop {n : Nat} {s t : State} (h : entryMicro s = .next t) (ht : t.ipc = .idle) :
    runEntry (n + 1) s = .next t := by
  simp only [runEntry, h, andThen_next, if_pos ht]

/-- An IRQ admitted where no other agent can move runs the entry from H1. -/
theorem startIrq_of_quiet {s : State} (p : IrqPort) (hlife : s.life = .ready) (hq : entryQuiet s = true) :
    startIrq p s = runEntry 4 (takeIrq p (logCmd .irq s)) := by
  have hquiet : entryQuiet (takeIrq p (logCmd .irq s)) = true := hq
  have hready : needReady s = none := needReady_eq_none.mpr hlife
  simp only [startIrq, hready, advanceEntry, if_pos hquiet]

/-- The state at H4 of an entry that was at H1 in s: counted, MIS read, and fired where the monitored condition holds. -/
def atAcknowledge (s : State) : State :=
  { s with
    ipc := .h4
    irqcnt := s.irqcnt + 1
    scr := { s.scr with m := answer s .mis }
    draws := s.draws + 1
    wake := if wakeCondition s.cfg (answer s .mis) && s.cfg.wakeFireClears then none else s.wake
    wakeOut := if wakeCondition s.cfg (answer s .mis) then s.wakeOut ++ s.wake.toList else s.wakeOut
    woken :=
      if wakeCondition s.cfg (answer s .mis) then
        s.woken ++ s.wake.toList.filter (fun x => decide (x ∉ s.woken))
      else s.woken
    trace := s.trace ++ [.read .mis (s.base + 0x40) (answer s .mis)] ++
      if wakeCondition s.cfg (answer s .mis) then s.wake.toList.map .wakeOut else [] }

/-- A run of the entry from H1 comes to H4 with a micro-step to spare. -/
theorem runEntry_to_h4 {n : Nat} {s : State} (hp : s.ipc = .h1) (hl : Launch s) :
    ∃ k, runEntry (n + 4) s = runEntry (k + 1) (atAcknowledge s) := by
  have h1 : entryMicro s = .next { countIrq s with ipc := .h2 } := by simp only [entryMicro, hp, entryH1]
  have h2 : entryMicro { countIrq s with ipc := .h2 } =
      .next (afterStatusRead (if wakeCondition s.cfg (answer s .mis) then .h3 else .h4) (countIrq s)) :=
    entryH2_of_launch hl
  rw [runEntry_go h1 nofun]
  cases hm : wakeCondition s.cfg (answer s .mis) with
  | true =>
    rw [hm] at h2
    have h3 : entryMicro (afterStatusRead .h3 (countIrq s)) = .next (atAcknowledge s) := by
      have hfire := fireWake_eq (afterStatusRead .h3 (countIrq s))
      simp only [entryMicro, afterStatusRead, entryH3] at hfire ⊢
      rw [hfire]
      simp only [atAcknowledge, hm, Bool.true_and, if_true]
      rfl
    exact ⟨n, (runEntry_go h2 nofun).trans (runEntry_go h3 nofun)⟩
  | false =>
    rw [hm] at h2
    have hskip : afterStatusRead .h4 (countIrq s) = atAcknowledge s := by
      simp only [atAcknowledge, hm, Bool.false_and, Bool.false_eq_true, if_false, List.append_nil]
      rfl
    exact ⟨n + 1, hskip ▸ runEntry_go h2 nofun⟩

/-- Settles O39: the entry goes from H1 to H4 and responds there. -/
theorem irqCountsReadsFiresClears : Obligations.IrqCountsReadsFiresClears := by
  intro p s hlife _ hq hl t
  suffices h : startIrq p s = .next t from ⟨h, fun hp => by rwa [hp] at h⟩
  obtain ⟨k, hk⟩ := runEntry_to_h4 (n := 0) (s := takeIrq p (logCmd .irq s)) rfl hl
  have h4 : entryMicro (atAcknowledge (takeIrq p (logCmd .irq s))) = _ := entryH4_of_launch hl
  rw [startIrq_of_quiet p hlife hq, hk, runEntry_stop h4 rfl]
  subst t
  rw [← List.append_assoc, ← List.append_assoc, List.append_cons s.trace]
  rfl

/-! ### The count -/

/-- A step of the entry has made its first micro-step, and keeps from there what every micro-step keeps. -/
theorem advanceEntry_keeps_after_first {P : State → Prop} (hP : ∀ u v, P u → entryMicro u = .next v → P v) {s t : State}
    (hfirst : ∀ u, entryMicro s = .next u → P u) (h : advanceEntry s = .next t) : P t := by
  unfold advanceEntry at h
  split at h
  · obtain ⟨u, hu, h⟩ := andThen_eq_next h
    split at h
    · cases h
      exact hfirst t hu
    · exact runEntry_keeps P hP _ _ _ (hfirst u hu) h
  · exact hfirst t h

/-- An entry past H1 that began with the counter at n has counted once (R211). -/
def CountedOnce (n : Nat) (s : State) : Prop := s.ipc ≠ .h1 ∧ s.irqcnt = n + 1

theorem CountedOnce.after_entryMicro {n : Nat} {s t : State} (hs : CountedOnce n s) (h : entryMicro s = .next t) :
    CountedOnce n t := by
  obtain ⟨hne, hcnt, -⟩ := entryMicro_phase h
  exact ⟨hne, by rw [hcnt, if_neg hs.1, hs.2]⟩

/-- Settles O40: H1 counts, no later label does, and k IRQs that run alone are k equations. -/
theorem irqCountsOncePerInvocation : Obligations.IrqCountsOncePerInvocation := by
  refine ⟨fun s hp => ?h1, fun p s t hlife h => ?invocation, fun k s hlife hipc hq hl => ?repeated⟩
  case h1 => simp only [entryMicro, hp, entryH1, countIrq]
  case invocation =>
    rcases startIrq_eq_next h with ⟨r, hr, -⟩ | ⟨-, h⟩
    · exact absurd (hr.symm.trans (needReady_eq_none.mpr hlife)) nofun
    · have hend : CountedOnce s.irqcnt t := by
        refine advanceEntry_keeps_after_first (fun _ _ hu => hu.after_entryMicro) (fun u hu => ?_) h
        cases hu
        exact ⟨nofun, rfl⟩
      exact hend.2
  case repeated =>
    induction k generalizing s with
    | zero => exact ⟨s, rfl, rfl, (List.append_nil _).symm, hipc⟩
    | succ k ih =>
      obtain ⟨-, hexec⟩ := irqCountsReadsFiresClears .command s hlife hipc hq hl
      obtain ⟨u, hu, hulife, huipc, huq, hul, hucnt, hursp⟩ : ∃ u, exec .irq s = .next u ∧ u.life = .ready ∧
          u.ipc = .idle ∧ entryQuiet u = true ∧ Launch u ∧ u.irqcnt = s.irqcnt + 1 ∧ u.rspOut = s.rspOut ++ [.ok] :=
        ⟨_, hexec rfl, hlife, rfl, hq, hl, rfl, rfl⟩
      obtain ⟨t, ht, hcnt, hrsp, hend⟩ := ih u hulife huipc huq hul
      exact ⟨t, by rw [execTimes, hu, andThen_next, ht], by omega,
        by rw [hrsp, hursp, List.replicate_succ, ← List.append_cons], hend⟩

/-! ### What the entry leaves alone -/

/-- What the interrupt entry does not touch: the parameters, LIFE and BASE, the write operation, the foreground phase,
the command port, the DR and FR queues, the configuration and the mask (R222). -/
def entryFrame (s : State) :=
  (bindView s, operationView s, s.upc, s.cmdIn, (s.uart.txlog, s.uart.rxq, s.uart.frq), configView s.uart)

theorem entryFrame_of_entryMicro {s t : State} (h : entryMicro s = .next t) : entryFrame t = entryFrame s := by
  rcases entryMicro_eq_next h with ⟨-, rfl⟩ | ⟨-, rfl⟩ | ⟨-, -, rfl⟩ | ⟨-, rfl⟩ | ⟨-, -, rfl⟩
  case inr.inr.inr.inl => rw [fireWake_eq]; rfl
  case inr.inr.inr.inr => simp [entryFrame, bindView, operationView, configView, uartAfterWrite]
  all_goals rfl

theorem entryFrame_of_advanceEntry {s t : State} (h : advanceEntry s = .next t) : entryFrame t = entryFrame s :=
  advanceEntry_keeps (entryFrame · = entryFrame s) (fun _ _ hu hm => (entryFrame_of_entryMicro hm).trans hu) rfl h

theorem entryFrame_of_startIrq {p : IrqPort} {s t : State} (h : startIrq p s = .next t) :
    entryFrame t = entryFrame s := by
  rcases startIrq_eq_next h with ⟨r, -, rfl⟩ | ⟨-, h⟩
  · cases p <;> rfl
  · exact (entryFrame_of_advanceEntry h :)

/-- Settles O42: no label of the entry touches the frame, and a refusal does not. -/
theorem irqLeavesTheWriteOperation : Obligations.IrqLeavesTheWriteOperation := by
  intro s t h
  have hframe : entryFrame t = entryFrame s :=
    h.elim (fun ⟨_, hp⟩ => entryFrame_of_startIrq hp) entryFrame_of_advanceEntry
  simp only [entryFrame, bindView, operationView, configView, Prod.mk.injEq] at hframe
  obtain ⟨⟨hcfg, hlife, hbase⟩, ⟨hop, hcur, hlen, hbuf⟩, hupc, hcmd, ⟨htx, hrx, hfr⟩, hibrd, hfbrd, hlcrh, hcr, hifls,
    himsc⟩ := hframe
  exact ⟨hlife, hbase, hop, hcur, hlen, hbuf, hupc, htx, hrx, hfr, himsc, hcr, hlcrh, hibrd, hfbrd, hifls, hcmd, hcfg⟩

/-! ### What wakes -/

/-- As built, the monitored condition fails where the receive bit is clear (R212, R13 of 00_scope.md). -/
theorem wakeCondition_eq_false {c : Config} {m : Word} (hc : c.AsBuilt) (hm : m.getLsbD c.rxBit = false) :
    wakeCondition c m = false := by
  have hmeet : m &&& c.wakeMask = 0#32 := by
    rw [hc, ← BitVec.twoPow_eq, BitVec.and_twoPow, hm, if_neg Bool.false_ne_true]
  simp only [wakeCondition, hmeet, ne_eq, not_true_eq_false, decide_false]

/-- An IRQ that runs alone and answers a next state has the launch premises. -/
theorem launch_of_execIrq {s t : State} (hlife : s.life = .ready) (hq : entryQuiet s = true)
    (h : exec .irq s = .next t) : Launch s := by
  cases hrefused : accessRefusal s with
  | none => exact launch_of_accessRefusal hrefused
  | some e =>
    have hrun : exec .irq s = .refused e := (startIrq_of_quiet .command hlife hq).trans (runEntry_refused hrefused rfl)
    exact absurd (h.symm.trans hrun) nofun

/-- Settles O43: the monitored condition fails, and H4 clears. -/
theorem onlyTheReceiveSourceWakes : Obligations.OnlyTheReceiveSourceWakes := by
  intro s t hbuilt hwf hipc hlife hrx h hq
  obtain ⟨-, -, -, -, -, -, -, -, -, -, hclear⟩ := hwf
  have hm : wakeCondition s.cfg (answer s .mis) = false :=
    wakeCondition_eq_false hbuilt (by rw [answer_mis, BitVec.getLsbD_and, hrx, Bool.false_and])
  obtain ⟨-, hexec⟩ := irqCountsReadsFiresClears .command s hlife hipc hq (launch_of_execIrq hlife hq h)
  obtain rfl := Host.Outcome.next.inj ((hexec rfl).symm.trans h)
  simp only [hm, Bool.false_and, Bool.false_eq_true, if_false, true_and]
  exact and_eq_zero_of_and_eq (cleared_afterWrite_icr s) hclear

/-! ### A wake and a redrive -/

/-- The mock repeats its last flag answer (R92). -/
theorem uartAfterRead_fr_of_mock {u : Uart} {f : Word} (hmode : u.mode = .mock) (hfrq : u.frq = [f]) :
    uartAfterRead u .fr = u := by
  have hrepeats : frqAfterRead u.mode u.frq = u.frq := by rw [hmode, hfrq]; rfl
  simp only [uartAfterRead, hrepeats]

/-- The state after a DRIVE of handle h in s that reads the flag answer f, suspends, and uses no answer up. -/
def suspendedOn (h : Nat) (f : Word) (s : State) : State :=
  { s with
    wake := some h
    opst := .suspended
    upc := .idle
    scr := { s.scr with h := h, f := f }
    draws := s.draws + 1
    woken := s.woken.filter (fun x => decide (x ≠ h))
    rspOut := s.rspOut ++ [.suspended]
    trace := s.trace ++ [.cmd (.drive h), .read .fr (s.base + 0x18) f, .rsp .command .suspended] }

/-- On the mock, with a flag answer that stays full, a DRIVE suspends and leaves the peripheral as it was (R187, R92). -/
theorem exec_drive_of_full_mock {h : Nat} {f : Word} {s : State} (ha : OperationAlive s) (hq : quiet s = true)
    (hl : Launch s) (hcur : s.cur < s.len) (hmode : s.uart.mode = .mock) (hfrq : s.uart.frq = [f])
    (hfull : txFull f = true) : exec (.drive h) s = .next (suspendedOn h f s) := by
  have hans : answer s .fr = f := answer_fr_cons hfrq
  have hexec := driveSuspendsOnAFullFifo h s ha hq hl hcur (hans ▸ hfull)
  rwa [hans, uartAfterRead_fr_of_mock hmode hfrq] at hexec

/-- Settles O45: a DRIVE that suspends, an IRQ that fires, and on the mock, whose last flag answer repeats, a DRIVE that
suspends again. -/
theorem wakeThenRedriveMaySuspendAgain : Obligations.WakeThenRedriveMaySuspendAgain := by
  intro h f s ha _ hipc ⟨hsched, hbus, hirq⟩ hl hcur hmode hfrq hfull hclears hm
  have hq : quiet s = true := quiet_iff.mpr ⟨hsched, hbus, .inr hirq⟩
  have hentry : entryQuiet s = true := entryQuiet_iff.mpr ⟨hsched, hbus⟩
  obtain ⟨-, hexec⟩ := irqCountsReadsFiresClears .command (suspendedOn h f s) ha.1 hipc hentry hl
  refine ⟨suspendedOn h f s, _, _, exec_drive_of_full_mock ha hq hl hcur hmode hfrq hfull, hexec rfl,
    exec_drive_of_full_mock (f := f) ⟨ha.1, by simp [suspendedOn]⟩ hq hl hcur hmode hfrq hfull, ?_⟩
  simp [suspendedOn, hm, hclears]

end Sys2Proof.Machine
end

section
/-! The order of what waits (R242, R243, R246 of 60_exceptions.md), and the spin that holds everything back (R235,
R254). -/

namespace Sys2Proof.Machine

/-! ### What the block's own step works on -/

/-- An entry in progress comes before everything else of the block (R246). -/
theorem blockStep_of_entry {s : State} (hbus : s.bus = none) (hipc : s.ipc ≠ .idle) :
    blockStep s = advanceEntry s := by
  simp only [blockStep, hbus, if_pos hipc]

/-- A request that may be served comes next (R242, R243). -/
theorem blockStep_of_request {s : State} (hbus : s.bus = none) (hipc : s.ipc = .idle) (h : mayServeIrq s = true) :
    blockStep s = startIrq .request { s with irqReq := s.irqReq - 1 } := by
  simp [blockStep, hbus, hipc, h]

/-- Then the foreground command in progress. -/
theorem blockStep_of_foreground {s : State} (hbus : s.bus = none) (hipc : s.ipc = .idle) (h : mayServeIrq s = false)
    (hupc : s.upc ≠ .idle) : blockStep s = advance s := by
  simp [blockStep, hbus, hipc, h, hupc]

/-- Inside a command no request may be served where none waits or where IRQ_PREEMPTS is false (R243). -/
theorem mayServeIrq_eq_false {s : State} (hupc : s.upc ≠ .idle) (h : s.irqReq = 0 ∨ s.cfg.irqPreempts = false) :
    mayServeIrq s = false := by
  rcases h with h | h <;> simp [mayServeIrq, hupc, h]

/-- Settles O8: the step is the block's own, which serves the entry, then the request, then the command. -/
theorem interruptRequestOrder : Obligations.InterruptRequestOrder := by
  intro s u hbus hu
  have hbus' : u.bus = none := by obtain ⟨-, rfl⟩ | ⟨_, -, rfl⟩ := hu <;> exact hbus
  rw [step_eq_blockStep hu]
  refine ⟨blockStep_of_entry hbus', fun hipc hupc hreq => ?between, fun hipc _ hreq hpre => ?inside,
    fun hipc hupc hno => blockStep_of_foreground hbus' hipc (mayServeIrq_eq_false hupc hno) hupc⟩
  case between => exact blockStep_of_request hbus' hipc (by simp [mayServeIrq, hreq, hupc])
  case inside => exact blockStep_of_request hbus' hipc (by simp [mayServeIrq, hreq, hpre])

/-! ### The hung spin -/

/-- A spin at a label that polls FR, with the mock's flag answer stuck at v, which keeps it spinning, and nothing that
could come in between. -/
structure HungSpin (v : Word) (s : State) : Prop where
  launch : Launch s
  noMove : s.sched = []
  noMaster : s.bus = none
  entryIdle : s.ipc = .idle
  noPreempt : s.cfg.irqPreempts = false
  mock : s.uart.mode = .mock
  stuck : s.uart.frq = [v]
  flag : (s.upc = .p1 ∨ s.upc = .d3) ∧ txBusy v = true ∨ s.upc = .g1 ∧ rxEmpty v = true

/-- k vain polls of a spin whose flag answer is v. -/
def polled (v : Word) (k : Nat) (s : State) : State :=
  { s with
    scr := { s.scr with f := if k = 0 then s.scr.f else v }
    draws := s.draws + k
    trace := s.trace ++ List.replicate k (.read .fr (s.base + 0x18) v) }

theorem polled_zero (v : Word) (s : State) : polled v 0 s = s := by simp [polled]

theorem polled_polled (v : Word) (k : Nat) (s : State) : polled v k (polled v 1 s) = polled v (k + 1) s := by
  simp [polled, List.replicate_succ, Nat.add_assoc, Nat.add_comm 1 k]

/-- A vain poll leaves the spin as it was. -/
theorem HungSpin.after_polls {v : Word} {s : State} (h : HungSpin v s) (k : Nat) : HungSpin v (polled v k s) :=
  { h with }

/-- The micro-step of a hung spin is one vain poll (R235). -/
theorem HungSpin.micro_eq {v : Word} {s : State} (h : HungSpin v s) :
    micro s = .next (polled v 1 s) := by
  have hans : answer s .fr = v := answer_fr_cons h.stuck
  have hpoll : ∀ p, s.upc = p →
      { afterRead s .fr with scr := { s.scr with f := answer s .fr }, upc := p } = polled v 1 s := by
    rintro p rfl
    simp [polled, afterRead, uartAfterRead_fr_of_mock h.mock h.stuck, hans, regAddr, regOffset]
  rcases h.flag with ⟨hp | hp, hf⟩ | ⟨hp, hf⟩ <;> simp only [micro, hp]
  · exact microP1_next.mpr ⟨h.launch, by rw [← hpoll _ hp, hans, if_pos hf]⟩
  · exact microD3_next.mpr ⟨h.launch, by rw [← hpoll _ hp, hans, if_pos hf]⟩
  · exact microG1_next.mpr ⟨h.launch, by rw [← hpoll _ hp, hans, if_pos hf]⟩

/-- A step of a hung spin is one vain poll: no request is served inside the command (R243, R254). -/
theorem HungSpin.step_eq {v : Word} {s : State} (h : HungSpin v s) : step s = .next (polled v 1 s) := by
  have hbusy : s.upc ≠ .idle := by rcases h.flag with ⟨hp | hp, -⟩ | ⟨hp, -⟩ <;> rw [hp] <;> exact nofun
  calc step s
    _ = blockStep s := step_eq_blockStep (.inl ⟨h.noMove, rfl⟩)
    _ = advance s :=
      blockStep_of_foreground h.noMaster h.entryIdle (mayServeIrq_eq_false hbusy (.inr h.noPreempt)) hbusy
    _ = .next (polled v 1 s) := advance_of_micro h.micro_eq (.inr rfl)

theorem HungSpin.stepTimes_eq {v : Word} {s : State} (h : HungSpin v s) (k : Nat) :
    stepTimes k s = .next (polled v k s) := by
  induction k generalizing s with
  | zero => rw [polled_zero]; rfl
  | succ k ih => rw [stepTimes, h.step_eq, andThen_next, ih (h.after_polls 1), polled_polled]

/-- Settles O23: each step of the hung spin is one more vain poll. -/
theorem hungSpinHoldsEverythingBack : Obligations.HungSpinHoldsEverythingBack :=
  fun k _ _ hl hsched hbus hipc hpre hmode hfrq hflag =>
    HungSpin.stepTimes_eq ⟨hl, hsched, hbus, hipc, hpre, hmode, hfrq, hflag⟩ k

end Sys2Proof.Machine
end

section
/-! Admission and refusal (R232, R233, R236 of 60_exceptions.md), the exception (R230) and the halted state (R231). -/

namespace Sys2Proof.Machine

/-! ### Refusals -/

/-- What a refused command of the response port changes (R232, R236). -/
theorem refuse_command_eq (i : Instr) (r : Reason) (s : State) :
    refuse .command r (logCmd i s) = { s with
      rspOut := s.rspOut ++ [.refused r]
      trace := s.trace ++ [.cmd i, .rsp .command (.refused r)]
      mark := true } := by
  simp [refuse, placeResponse, logCmd]

/-- What a refused request of irq_req changes (R232, R236). -/
theorem refuse_request_eq (i : Instr) (r : Reason) (s : State) :
    refuse .request r (logCmd i s) = { s with
      irqDone := s.irqDone ++ [.refused r]
      trace := s.trace ++ [.cmd i, .rsp .request (.refused r)]
      mark := true } := by
  simp [refuse, placeResponse, logCmd]

theorem refuseOpcode_eq (op : Byte) (s : State) :
    refuseOpcode op s = { s with
      rspOut := s.rspOut ++ [.refused .badOpcode]
      trace := s.trace ++ [.badOpcode op, .rsp .command (.refused .badOpcode)]
      mark := true } := by
  simp [refuseOpcode, refuse, placeResponse]

/-! ### The admission check of each command -/

/-- The reason the admission check gives for refusing a command, if it does (R233). Of the register rows, which have no
check, it says nothing. -/
def refusalOf (i : Instr) (s : State) : Option Reason :=
  match i with
  | .construct _ => needReset s
  | .irq => needReady s
  | .drive _ => needOperation s
  | .drop => needOperation s
  | _ => needDriver s

/-- In HALTED the check of every command gives the reason HALTED (R231). -/
theorem refusalOf_of_halted {s : State} (h : s.life = .halted) (i : Instr) : refusalOf i s = some .halted := by
  cases i <;> simp only [refusalOf, needReset, needReady, needDriver, needOperation, h]

/-- In RESET it gives NOT_CONSTRUCTED for every command but CONSTRUCT. -/
theorem refusalOf_of_reset {i : Instr} {s : State} (h : s.life = .reset) (hi : ∀ base, i ≠ .construct base) :
    refusalOf i s = some .notConstructed := by
  cases i with
  | construct base => exact absurd rfl (hi base)
  | _ => simp only [refusalOf, needReady, needDriver, needOperation, h]

theorem refusalOf_driverCommand {i : Instr} (hi : DriverCommand i) (s : State) : refusalOf i s = needDriver s := by
  rcases hi with rfl | ⟨_, rfl⟩ | rfl | rfl | rfl | ⟨_, rfl⟩ <;> rfl

theorem refusalOf_operationCommand {i : Instr} (hi : (∃ h, i = .drive h) ∨ i = .drop) (s : State) :
    refusalOf i s = needOperation s := by
  rcases hi with ⟨_, rfl⟩ | rfl <;> rfl

/-- The check does not look at the ghosts (R40 of 10_state.md, R154 of 40_driver_ops.md). -/
theorem refusalOf_ghost (i : Instr) (s : State) (g : Ghost) : refusalOf i { s with ghost := g } = refusalOf i s := by
  cases i <;> rfl

/-! ### What exec does with the check -/

/-- A command of the port is IRQ or has a first label. -/
theorem command_kind {i : Instr} (hi : isCommand i = true) : i = .irq ∨ ∃ p, firstLabel i = some p := by
  rcases instr_kind i with ⟨r, hr⟩ | hkind
  · exact absurd (isCommand_of_rowReg hr) (by simp [hi])
  · exact hkind

/-- A foreground command is started under its check. -/
theorem exec_eq_startCommand {i : Instr} {p : Phase} (hp : firstLabel i = some p) (s : State) :
    exec i s = startCommand i (refusalOf i s) p (latched i) s := by
  cases i <;> cases hp <;> rfl

/-- The check of a foreground command lets it pass where R233 admits it. -/
theorem refusalOf_eq_none {i : Instr} {p : Phase} (hp : firstLabel i = some p) (s : State) :
    refusalOf i s = none ↔ Admitted i s := by
  cases i with
  | construct => exact needReset_eq_none
  | drive | drop => exact needOperation_eq_none
  | init | putc | getc | rxpend | ack | beginWrite => exact needDriver_eq_none
  | _ => cases hp

/-- An IRQ its check refuses is refused on the port it came by. -/
theorem startIrq_of_refusalOf {p : IrqPort} {r : Reason} {s : State} (h : refusalOf .irq s = some r) :
    startIrq p s = .next (refuse p r (logCmd .irq s)) := by
  simp only [startIrq, show needReady s = some r from h]

/-- A command its check refuses is refused by exec. -/
theorem exec_of_refusalOf {i : Instr} {r : Reason} {s : State} (hi : isCommand i = true)
    (h : refusalOf i s = some r) : exec i s = .next (refuse .command r (logCmd i s)) := by
  rcases command_kind hi with rfl | ⟨p, hp⟩
  · exact startIrq_of_refusalOf h
  · rw [exec_eq_startCommand hp, h, startCommand_refused]

/-! ### An admitted command is not refused -/

/-- No foreground micro-step sets the run's mark (R236). -/
theorem micro_mark {s t : State} (h : micro s = .next t) : t.mark = s.mark := by
  cases hp : s.upc <;> simp only [micro, hp] at h
  case i1 | i2 | i3 | i4 | i5 | i6 | i7 => obtain ⟨-, rfl⟩ := microInit_next.mp h; rfl
  case p1 => obtain ⟨-, rfl⟩ := microP1_next.mp h; rfl
  case p2 => obtain ⟨-, rfl⟩ := microP2_next.mp h; rfl
  case g1 => obtain ⟨-, rfl⟩ := microG1_next.mp h; rfl
  case g2 => obtain ⟨-, rfl⟩ := microG2_next.mp h; rfl
  case q1 => obtain ⟨-, rfl⟩ := microQ1_next.mp h; rfl
  case a1 => obtain ⟨-, rfl⟩ := microA1_next.mp h; rfl
  case d1 => rcases microD1_next.mp h with ⟨-, rfl⟩ | ⟨-, rfl⟩ <;> rfl
  case d2 => obtain ⟨-, ⟨-, rfl⟩ | ⟨-, rfl⟩⟩ := microD2_next.mp h <;> rfl
  case d3 => obtain ⟨-, rfl⟩ := microD3_next.mp h; rfl
  case d4 => obtain ⟨-, b, -, rfl⟩ := microD4_next.mp h; rfl
  case idle | c1 | c2 | c3 | i8 | b1 | ds | d5 | x1 => cases h; rfl

theorem entryMicro_mark {s t : State} (h : entryMicro s = .next t) : t.mark = s.mark := by
  rcases entryMicro_eq_next h with ⟨-, rfl⟩ | ⟨-, rfl⟩ | ⟨-, -, rfl⟩ | ⟨-, rfl⟩ | ⟨-, -, rfl⟩ <;> simp

theorem AnswerOf.ne_refused {p : Phase} {x : Response} (h : AnswerOf p x) (r : Reason) : x ≠ .refused r := by
  cases h <;> exact nofun

/-- From s to u the mark is as it was, and nothing was answered yet or something other than REFUSED. -/
structure NotRefused (s u : State) : Prop where
  mark : u.mark = s.mark
  response : u.upc ≠ .idle ∧ u.rspOut = s.rspOut ∨
    u.upc = .idle ∧ ∃ x, u.rspOut = s.rspOut ++ [x] ∧ ∀ r, x ≠ .refused r

theorem NotRefused.after_micro {s u v : State} (hu : NotRefused s u) (h : micro u = .next v) : NotRefused s v := by
  refine ⟨(micro_mark h).trans hu.mark, ?_⟩
  rcases hu.response with ⟨hbusy, hrsp⟩ | ⟨hidle, hx⟩
  · rw [← hrsp]
    rcases micro_answers hbusy h with ⟨hv, hgo⟩ | ⟨hend, x, hv, hx⟩
    · exact .inl ⟨hgo, hv⟩
    · exact .inr ⟨hend, x, hv, hx.ne_refused⟩
  · simp only [micro, hidle, Host.Outcome.next.injEq] at h
    exact h ▸ .inr ⟨hidle, hx⟩

/-- A command its check does not refuse leaves the mark, and does not answer REFUSED in the step that presents it. -/
theorem not_refused_of_exec {i : Instr} {s t : State} (hi : isCommand i = true) (ha : refusalOf i s = none)
    (h : exec i s = .next t) : t.mark = s.mark ∧ ∀ r, t.rspOut ≠ s.rspOut ++ [.refused r] := by
  rcases command_kind hi with rfl | ⟨p, hp⟩
  · rw [execIrq_of_ready (needReady_eq_none.mp ha)] at h
    have htaken : (takeIrq .command (logCmd .irq s)).mark = s.mark ∧
        EntryAnswersOnce s (takeIrq .command (logCmd .irq s)) := ⟨rfl, rfl, .inl ⟨nofun, rfl⟩⟩
    obtain ⟨hmark, -, hrsp⟩ := advanceEntry_keeps (fun u => u.mark = s.mark ∧ EntryAnswersOnce s u)
      (fun _ _ hu hm => ⟨(entryMicro_mark hm).trans hu.1, hu.2.after_entryMicro hm⟩) htaken h
    rcases hrsp with ⟨-, hrsp⟩ | ⟨-, hrsp⟩ <;> exact ⟨hmark, fun r => by simp [hrsp]⟩
  · rw [exec_of_admitted hp ((refusalOf_eq_none hp s).mp ha)] at h
    have haccepted : NotRefused s { latched i (logCmd i s) with upc := p } :=
      ⟨by cases i <;> rfl, .inl ⟨by cases i <;> cases hp <;> exact nofun, latched_rspOut i _⟩⟩
    obtain ⟨hmark, ⟨-, hrsp⟩ | ⟨-, x, hrsp, hx⟩⟩ :=
      accept_keeps (NotRefused s) (fun _ _ hu => hu.after_micro) haccepted h
    · exact ⟨hmark, fun r => by simp [hrsp]⟩
    · exact ⟨hmark, fun r => by simp [hrsp, hx r]⟩

/-- exec refuses a command where its check does, and nowhere else. -/
theorem exec_refuses_iff {i : Instr} (hi : isCommand i = true) (s : State) :
    (∃ r, exec i s = .next (refuse .command r (logCmd i s))) ↔ ∃ r, refusalOf i s = some r := by
  refine ⟨fun ⟨r, h⟩ => ?_, fun ⟨r, h⟩ => ⟨r, exec_of_refusalOf hi h⟩⟩
  refine Option.ne_none_iff_exists'.mp fun hnone => ?_
  exact (not_refused_of_exec hi hnone h).2 r rfl

/-! ### The admission table -/

/-- Settles O12: the check of each command, case by case of the table; a refusal changes what refuse does, and an
admitted command is not refused. -/
theorem admissionCheck : Obligations.AdmissionCheck := by
  refine ⟨fun c op rest hop => decode_illegal c hop rest, fun s op => refuseOpcode_eq op s,
    fun i s r hi htable => ?refused, fun s hlife => ?request, fun i s t hi htable => ?admitted,
    fun i s b hi => ?ghost⟩
  case refused =>
    have hcheck : refusalOf i s = some r := by
      rcases htable with ⟨hlife, rfl⟩ | ⟨hlife, hi', rfl⟩ | ⟨hlife, ⟨base, rfl⟩, rfl⟩ | ⟨hlife, hop, hi', rfl⟩ |
        ⟨hlife, hop, hi', rfl⟩
      · exact refusalOf_of_halted hlife i
      · exact refusalOf_of_reset hlife hi'
      · simp only [refusalOf, needReset, hlife]
      · simp only [refusalOf_driverCommand hi', needDriver, hlife, if_neg hop]
      · simp only [refusalOf_operationCommand hi', needOperation, hlife, if_pos hop]
    rw [exec_of_refusalOf hi hcheck, refuse_command_eq]
  case request =>
    rw [startIrq_of_refusalOf (refusalOf_of_reset hlife nofun), refuse_request_eq]
  case admitted =>
    refine not_refused_of_exec hi ?_
    rcases htable with ⟨hlife, base, rfl⟩ | ⟨hlife, hop, hi'⟩ | ⟨hlife, rfl⟩ | ⟨hlife, hop, hi'⟩
    · exact needReset_eq_none.mpr hlife
    · exact (refusalOf_driverCommand hi' s).trans (needDriver_eq_none.mpr ⟨hlife, hop⟩)
    · exact needReady_eq_none.mpr hlife
    · exact (refusalOf_operationCommand hi' s).trans (needOperation_eq_none.mpr ⟨hlife, hop⟩)
  case ghost => rw [exec_refuses_iff hi, exec_refuses_iff hi, refusalOf_ghost i s { s.ghost with inited := b }]

/-! ### The exception -/

/-- With a null base C1 goes on to C2 (R151). -/
theorem microC1_of_zero {s : State} (h : s.scr.base = 0) : microC1 s = .next { s with upc := .c2 } := by
  simp only [microC1, if_pos h]

/-- Settles O13: C1 goes on to C2, which raises the exception. -/
theorem nullBaseHaltsTheBlock : Obligations.NullBaseHaltsTheBlock := by
  intro s hlife hq
  rw [List.append_cons s.trace]
  exact exec_next_of_two_micros (i := .construct 0) rfl hlife hq (microC1_of_zero rfl) nofun nofun rfl rfl

/-! ### The halted state -/

/-- A halted block has nothing in progress. -/
theorem BlockInv.between_of_halted {s : State} (hs : BlockInv s) (h : s.life = .halted) : Between s := by
  refine ⟨by_contra fun hbusy => ?_, by_contra fun hbusy => nomatch h.symm.trans (hs.entryReady hbusy)⟩
  cases hc : constructing s.upc with
  | true => exact nomatch h.symm.trans (hs.constructPhase hc)
  | false => exact nomatch h.symm.trans (hs.readyPhase hbusy hc)

/-- With nothing in progress no micro-step does anything. -/
theorem MicroSteps.eq_of_between {v t : State} (h : MicroSteps v t) (hv : Between v) : t = v := by
  obtain ⟨hupc, hipc⟩ := hv
  refine h.keeps (P := (· = v)) rfl ?_ ?_
  · rintro u w rfl hm
    simp only [micro, hupc, Host.Outcome.next.injEq] at hm
    exact hm.symm
  · rintro u w rfl hm
    simp only [entryMicro, hipc, Host.Outcome.next.injEq] at hm
    exact hm.symm

/-- A step of a halted block makes no access of the block: what opens it makes none, and nothing follows. -/
theorem step_accesses_of_halted {s t : State} (hs : BlockInv s) (hlife : s.life = .halted) (h : step s = .next t) :
    blockAccesses t.trace = blockAccesses s.trace := by
  rcases step_opens h with ⟨m, rest, -, -, rfl⟩ | ⟨u, v, hu, hv, hrun⟩
  · rw [applyMove_trace]
  · have hvlife : v.life = s.life := congrArg (·.2.1) (hv.keeps_bindView.trans hu.keeps_bindView)
    have hbetween := ((hs.of_sameButInputs hu).after_opening hv).between_of_halted (hvlife.trans hlife)
    obtain ⟨_, _, _, _, rfl⟩ := hu
    rw [hrun.eq_of_between hbetween]
    exact hv.accesses

/-- Settles O14: the check refuses everything, and a step that is not the reset input leaves LIFE alone. -/
theorem haltedRefusesEverythingUntilReset : Obligations.HaltedRefusesEverythingUntilReset := by
  refine ⟨fun i s hlife hi => ?command, fun s hlife => ?request, fun s t hs hlife h hreset => ⟨?life, ?accesses⟩⟩
  case command => rw [exec_of_refusalOf hi (refusalOf_of_halted hlife i), refuse_command_eq]
  case request => rw [startIrq_of_refusalOf (refusalOf_of_halted hlife .irq), refuse_request_eq]
  case life =>
    have hkept := step_bindView hs (by rw [hlife]; exact nofun) hreset h
    exact (congrArg (·.2.1) hkept).trans hlife
  case accesses => exact step_accesses_of_halted hs hlife h

end Sys2Proof.Machine
end

section
/-! The reset input (R62 of 10_state.md, R270, R271 of 70_reset_and_hazards.md), and the wake that is lost when a
request is served inside a DRIVE (R283). -/

namespace Sys2Proof.Machine

/-! ### The reset input -/

/-- Settles O11: the reset state's registers by definition, and the scheduled reset input puts the block back at them
and keeps what is outside. -/
theorem resetLeavesTheBlock : Obligations.ResetLeavesTheBlock := by
  refine ⟨⟨rfl, rfl, rfl, rfl, rfl, rfl, rfl⟩, fun s rest h => ?_⟩
  have hstep : step s = .next (resetInput { s with sched := rest }) := step_of_scheduled h nofun
  exact ⟨_, hstep, rfl, rfl, rfl, rfl, rfl, rfl, rfl, rfl, rfl, rfl, rfl, rfl, rfl, rfl, rfl⟩

/-! ### The lost wake -/

/-- The state after a request on irq_req was served with an empty wake cell: counted and acknowledged, nothing fired. -/
def servedUnregistered (s : State) : State :=
  { s with
    irqReq := s.irqReq - 1
    irqcnt := s.irqcnt + 1
    scr := { s.scr with m := answer s .mis }
    irqPort := .request
    uart := { s.uart with ris := s.uart.ris &&& ~~~ s.cfg.clearAll, icr := s.cfg.clearAll }
    draws := s.draws + 1
    irqDone := s.irqDone ++ [.ok]
    trace := s.trace ++
      [.cmd .irq, .read .mis (s.base + 0x40) (answer s .mis), .write .icr (s.base + 0x44) s.cfg.clearAll,
        .rsp .request .ok]
    ghost := { s.ghost with irqsDone := s.ghost.irqsDone + 1 } }

/-- With an empty wake cell the interrupt entry, run alone, has nothing to fire, whatever is pending (R214). -/
theorem startIrq_of_no_wake {s : State} (hlife : s.life = .ready) (hipc : s.ipc = .idle) (hsched : s.sched = [])
    (hbus : s.bus = none) (hl : Launch s) (hwake : s.wake = none) :
    startIrq .request { s with irqReq := s.irqReq - 1 } = .next (servedUnregistered s) := by
  have hq : entryQuiet s = true := entryQuiet_iff.mpr ⟨hsched, hbus⟩
  obtain ⟨hserved, -⟩ := irqCountsReadsFiresClears .request { s with irqReq := s.irqReq - 1 } hlife hipc hq hl
  rw [hserved]
  simp [servedUnregistered, hwake, hipc, answer]

/-- DS, with nothing that could come before it, is the whole step (R187). -/
theorem step_of_ds {s : State} (hupc : s.upc = .ds) (hsched : s.sched = []) (hbus : s.bus = none) (hipc : s.ipc = .idle)
    (hreq : s.irqReq = 0) : step s = microDS s := by
  have hbusy : s.upc ≠ .idle := by rw [hupc]; exact nofun
  have hmicro : micro s = microDS s := by simp only [micro, hupc]
  calc step s
    _ = blockStep s := step_eq_blockStep (.inl ⟨hsched, rfl⟩)
    _ = advance s := blockStep_of_foreground hbus hipc (mayServeIrq_eq_false hbusy (.inl hreq)) hbusy
    _ = microDS s := advance_of_micro hmicro (.inl rfl)

/-- Settles O44: the request comes before DS and finds the cell empty; DS then registers the handle, which no request is
left to fire. -/
theorem preemptedDriveLosesTheWake : Obligations.PreemptedDriveLosesTheWake := by
  intro s hpre hsched hbus hreq hipc hlife hupc hwake hl
  have hserved : step s = .next (servedUnregistered s) := calc step s
    _ = blockStep s := step_eq_blockStep (.inl ⟨hsched, rfl⟩)
    _ = startIrq .request { s with irqReq := s.irqReq - 1 } :=
      blockStep_of_request hbus hipc (by simp [mayServeIrq, hreq, hpre])
    _ = .next (servedUnregistered s) := startIrq_of_no_wake hlife hipc hsched hbus hl hwake
  have hsuspended : step (servedUnregistered s) = microDS (servedUnregistered s) :=
    step_of_ds hupc hsched hbus hipc (congrArg (· - 1) hreq)
  have htwo : stepTimes 2 s = microDS (servedUnregistered s) := by
    rw [stepTimes, hserved, andThen_next, stepTimes, hsuspended]
    rfl
  exact ⟨_, htwo, rfl, rfl, rfl, rfl, rfl, rfl, rfl, rfl, rfl⟩

end Sys2Proof.Machine
end
